-- ==== Sys2Proof/Word.lean ====
section
/-! DEFINITION. The plain types of the model: bytes, words, byte order (00_scope R14-R16). -/

namespace Sys2Proof

/-- A byte (R16). -/
abbrev Byte := BitVec 8

/-- A 32-bit register or word (R14). -/
abbrev Word32 := BitVec 32

/-- A 64-bit register or word (R14). -/
abbrev Word64 := BitVec 64

/-- The byte order given explicitly to every conversion (R130). -/
inductive Endian where
  | be
  | le
deriving DecidableEq, Repr

end Sys2Proof
end

