-- ==== Sys2Proof/Syntax.lean ====
section
/-! DEFINITION. The commands of KEHC as syntax (30_encoding R102) and the names their fields and errors take. -/

namespace Sys2Proof

/-- The algorithms that an ALG field may name (00_scope R3, 30_encoding R104). Codes 4 to 7 name none. -/
inductive Alg where
  | sha224
  | sha256
  | ripemd160
  | sha512
deriving DecidableEq, Repr

/-- The word sizes that a WS field may name (30_encoding R105). Codes 2 and 3 name none. -/
inductive WordSize where
  | w32
  | w64
deriving DecidableEq, Repr

/-- The ten commands, one constructor per row of the opcode table (30_encoding R102). -/
inductive Instr where
  | nop
  | init (alg : Alg)
  | pad
  | compress
  | hashbuf (alg : Alg)
  | sbegin (alg : Alg)
  | sstep
  | bswap (ws : WordSize)
  | stdig
  | clrerr
deriving DecidableEq, Repr

/-- The errors a command can raise, in the order of their codes 1 to 10 (60_exceptions R320). -/
inductive ErrorCode where
  | invalidLength
  | streamUnreadable
  | lengthRequired
  | notImplemented
  | illegalCommand
  | addressRange
  | sequenceError
  | lengthMismatch
  | lengthRange
  | streamFault
deriving DecidableEq, Repr

end Sys2Proof
end

