-- ==== Sys2Proof/Config.lean ====
section
/-! DEFINITION. The implementation parameters (00_scope R10-R13, 20_memory R77) and the values the spec leaves open. -/

namespace Sys2Proof

/-- The parameters of one instance that the spec leaves OPEN and that a model takes as arguments. The state carries them
(log 1), so that a statement about every state is a statement about every choice of them. -/
structure Params where
  /-- MM_SIZE, the size of message memory in bytes (R10). -/
  mmSize : Nat
  /-- HAS_SHA512, whether ALG = 3 has a working body (R12). -/
  hasSha512 : Bool
  /-- REG_BASE, where the platform places the register space (R77). -/
  regBase : Nat
  /-- MM_BASE, where the platform places message memory (R77). -/
  mmBase : Nat
deriving DecidableEq, Repr

/-- The bound that R10 puts on MM_SIZE. -/
abbrev Params.wf (p : Params) : Prop := 1 ≤ p.mmSize ∧ p.mmSize ≤ 2 ^ 31

/-- STREAM_MARGIN is 0 for this hardware (R11). -/
def Config.streamMargin : Nat := 0

/-- DESIGN CHOICE (log 1): the parameters of `State.reset`, which the spec leaves OPEN: those of the test vectors'
convention (95_test_vectors, Conventions), with the register space at 0 and message memory after it. -/
def Config.defaultParams : Params :=
  { mmSize := 0x1000, hasSha512 := true, regBase := 0, mmBase := 0x1000 }

/-- A free value (log 13): what the word conversion gives for a byte sequence whose length is no multiple of the word
size. The spec gives no result (93 I14, `any value`), and no command reaches it (40_endian R134). -/
opaque Config.nonMultipleWords : (wordBytes : Nat) → Endian → List Byte → List (BitVec (8 * wordBytes))

/-- A free value (log 13): what the word swap gives for a byte sequence whose length is no multiple of the word size.
The spec gives no result (40_endian R133, R134), and no command reaches it: BSWAP raises INVALID_LENGTH first. -/
opaque Config.nonMultipleSwap : (wordBytes : Nat) → List Byte → List Byte

end Sys2Proof
end

