-- ==== Sys2Proof/Machine/WordOps.lean ====
section
/-! DEFINITION. The operations on words of 00_scope R20: shift and rotations. Addition, XOR, AND, OR and complement are
those of `BitVec`, which wrap at the word's width. -/

namespace Sys2Proof.Machine

/-- `shr(x, n)`: right shift with zero fill, for 0 ≤ n < w (R20). No rule has another n (log 21). -/
def shr {w : Nat} (x : BitVec w) (n : Nat) : BitVec w := x >>> n

/-- `rotr_w(x, n)` for 0 < n < w (R20). No rule has another n (log 21). -/
def rotr {w : Nat} (x : BitVec w) (n : Nat) : BitVec w := shr x n ||| (x <<< (w - n))

/-- `rotl_w(x, n)` for 0 < n < w (R20). No rule has another n (log 21). -/
def rotl {w : Nat} (x : BitVec w) (n : Nat) : BitVec w := (x <<< n) ||| shr x (w - n)

end Sys2Proof.Machine
end

