-- ==== Sys2Proof/Machine/Ripemd160.lean ====
section
/-! DEFINITION. The RIPEMD-160 compression pipeline (44_ripemd160). -/

namespace Sys2Proof.Machine

/-- Five words: the working set of one line, and the state words hs[0..4] (R230, R237). -/
structure Work5 where
  a : Word32
  b : Word32
  c : Word32
  d : Word32
  e : Word32
deriving DecidableEq, Repr

/-- The nonlinear function of step index j < 80 (R231, 90_conflicts C6). No step has a larger index (log 21). -/
def ripemdF (j : Nat) (x y z : Word32) : Word32 :=
  if j < 16 then x ^^^ y ^^^ z
  else if j < 32 then (x &&& y) ||| (~~~x &&& z)
  else if j < 48 then (x ||| ~~~y) ^^^ z
  else if j < 64 then (x &&& z) ||| (y &&& ~~~z)
  else x ^^^ (y ||| ~~~z)

/-- The step constants KL[q] of the left line (R232). -/
def ripemdKL : List Word32 := [0x00000000#32, 0x5a827999#32, 0x6ed9eba1#32, 0x8f1bbcdc#32, 0xa953fd4e#32]

/-- The step constants KR[q] of the right line (R232). -/
def ripemdKR : List Word32 := [0x50a28be6#32, 0x5c4dd124#32, 0x6d703ef3#32, 0x7a6d76e9#32, 0x00000000#32]

/-- The word selection rL[j] of the left line (R233). -/
def ripemdRL : List Nat :=
  [0, 1, 2, 3, 4, 5, 6, 7, 8, 9, 10, 11, 12, 13, 14, 15] ++
  [7, 4, 13, 1, 10, 6, 15, 3, 12, 0, 9, 5, 2, 14, 11, 8] ++
  [3, 10, 14, 4, 9, 15, 8, 1, 2, 7, 0, 6, 13, 11, 5, 12] ++
  [1, 9, 11, 10, 0, 8, 12, 4, 13, 3, 7, 15, 14, 5, 6, 2] ++
  [4, 0, 5, 9, 7, 12, 2, 10, 14, 1, 3, 8, 11, 6, 15, 13]

/-- The word selection rR[j] of the right line (R233). -/
def ripemdRR : List Nat :=
  [5, 14, 7, 0, 9, 2, 11, 4, 13, 6, 15, 8, 1, 10, 3, 12] ++
  [6, 11, 3, 7, 0, 13, 5, 10, 14, 15, 8, 12, 4, 9, 1, 2] ++
  [15, 5, 1, 3, 7, 14, 6, 9, 11, 8, 12, 2, 10, 0, 4, 13] ++
  [8, 6, 4, 1, 3, 11, 15, 0, 5, 12, 2, 13, 9, 7, 10, 14] ++
  [12, 15, 10, 4, 1, 5, 8, 7, 6, 2, 13, 14, 0, 3, 9, 11]

/-- The rotation amounts sL[j] of the left line (R234). -/
def ripemdSL : List Nat :=
  [11, 14, 15, 12, 5, 8, 7, 9, 11, 13, 14, 15, 6, 7, 9, 8] ++
  [7, 6, 8, 13, 11, 9, 7, 15, 7, 12, 15, 9, 11, 7, 13, 12] ++
  [11, 13, 6, 7, 14, 9, 13, 15, 14, 8, 13, 6, 5, 12, 7, 5] ++
  [11, 12, 14, 15, 14, 15, 9, 8, 9, 14, 5, 6, 8, 6, 5, 12] ++
  [9, 15, 5, 11, 6, 8, 13, 12, 5, 12, 13, 14, 11, 8, 5, 6]

/-- The rotation amounts sR[j] of the right line (R234). -/
def ripemdSR : List Nat :=
  [8, 9, 9, 11, 13, 15, 15, 5, 7, 7, 8, 11, 14, 14, 12, 6] ++
  [9, 13, 15, 7, 12, 8, 9, 11, 7, 7, 12, 7, 6, 15, 13, 11] ++
  [9, 7, 15, 11, 8, 6, 6, 14, 12, 13, 5, 14, 13, 13, 7, 5] ++
  [15, 5, 8, 11, 14, 14, 6, 14, 6, 9, 12, 9, 12, 5, 15, 8] ++
  [8, 5, 12, 9, 12, 5, 14, 6, 8, 13, 6, 5, 15, 13, 11, 11]

/-- IV(2), RIPEMD-160 (R236). -/
def initialWordsRipemd160 : List Word32 :=
  [0x67452301#32, 0xefcdab89#32, 0x98badcfe#32, 0x10325476#32, 0xc3d2e1f0#32]

/-- One step of a line, given its function value, block word, constant and rotation amount (R235). -/
def ripemdStep (ws : Work5) (fv x k : Word32) (s : Nat) : Work5 :=
  { a := ws.e, b := rotl (ws.a + fv + x + k) s + ws.e, c := ws.b, d := rotl ws.c 10, e := ws.d }

/-- Step j < 80 of the left line, on 16 block words (R235; log 21). -/
def ripemdLeft (X : List Word32) (ws : Work5) (j : Nat) : Work5 :=
  ripemdStep ws (ripemdF j ws.b ws.c ws.d) (X.getD (ripemdRL.getD j 0) 0) (ripemdKL.getD (j / 16) 0) (ripemdSL.getD j 0)

/-- Step j < 80 of the right line, on 16 block words; its function index is mirrored as 79 - j (R235; log 21). -/
def ripemdRight (X : List Word32) (ws : Work5) (j : Nat) : Work5 :=
  ripemdStep ws (ripemdF (79 - j) ws.b ws.c ws.d) (X.getD (ripemdRR.getD j 0) 0) (ripemdKR.getD (j / 16) 0)
    (ripemdSR.getD j 0)

/-- The merge of the two lines into the state (R237). -/
def ripemdMerge (hs l r : Work5) : Work5 :=
  { a := hs.b + l.c + r.d, b := hs.c + l.d + r.e, c := hs.d + l.e + r.a, d := hs.e + l.a + r.b, e := hs.a + l.b + r.c }

/-- `compress160(hs, X)`: 80 steps of each line, then the merge (R237). -/
def compress160 (hs : Work5) (X : List Word32) : Work5 :=
  ripemdMerge hs ((List.range 80).foldl (ripemdLeft X) hs) ((List.range 80).foldl (ripemdRight X) hs)

end Sys2Proof.Machine
end

