-- ==== Sys2Proof/Machine/Sha2.lean ====
section
/-! DEFINITION. The SHA-2 compression pipelines (43_sha2_256 and 45_sha2_512). Both have one structure, at word width 32
or 64; they differ in their four sigma functions, their round constants and their initial values. -/

namespace Sys2Proof.Machine

/-- Eight words: the working registers a..h, and the state words hs[0..7] (R208, R209). -/
structure Work8 (w : Nat) where
  a : BitVec w
  b : BitVec w
  c : BitVec w
  d : BitVec w
  e : BitVec w
  f : BitVec w
  g : BitVec w
  h : BitVec w
deriving DecidableEq, Repr

/-- Ch (R201, R261). -/
def ch {w : Nat} (x y z : BitVec w) : BitVec w := (x &&& y) ^^^ (~~~x &&& z)

/-- Maj (R201, R261). -/
def maj {w : Nat} (x y z : BitVec w) : BitVec w := (x &&& y) ^^^ (x &&& z) ^^^ (y &&& z)

/-- Big sigma 0 on 32-bit words (R202). -/
def bigSigma0W32 (x : Word32) : Word32 := rotr x 2 ^^^ rotr x 13 ^^^ rotr x 22

/-- Big sigma 1 on 32-bit words (R202). -/
def bigSigma1W32 (x : Word32) : Word32 := rotr x 6 ^^^ rotr x 11 ^^^ rotr x 25

/-- Small sigma 0 on 32-bit words (R203). -/
def smallSigma0W32 (x : Word32) : Word32 := rotr x 7 ^^^ rotr x 18 ^^^ shr x 3

/-- Small sigma 1 on 32-bit words (R203). -/
def smallSigma1W32 (x : Word32) : Word32 := rotr x 17 ^^^ rotr x 19 ^^^ shr x 10

/-- Big sigma 0 on 64-bit words (R261). -/
def bigSigma0W64 (x : Word64) : Word64 := rotr x 28 ^^^ rotr x 34 ^^^ rotr x 39

/-- Big sigma 1 on 64-bit words (R261). -/
def bigSigma1W64 (x : Word64) : Word64 := rotr x 14 ^^^ rotr x 18 ^^^ rotr x 41

/-- Small sigma 0 on 64-bit words (R261). -/
def smallSigma0W64 (x : Word64) : Word64 := rotr x 1 ^^^ rotr x 8 ^^^ shr x 7

/-- Small sigma 1 on 64-bit words (R261). -/
def smallSigma1W64 (x : Word64) : Word64 := rotr x 19 ^^^ rotr x 61 ^^^ shr x 6

/-- The round constants K256[0..63] (R204). -/
def roundConstants256 : List (BitVec 32) :=
  [0x428a2f98#32, 0x71374491#32, 0xb5c0fbcf#32, 0xe9b5dba5#32,
   0x3956c25b#32, 0x59f111f1#32, 0x923f82a4#32, 0xab1c5ed5#32,
   0xd807aa98#32, 0x12835b01#32, 0x243185be#32, 0x550c7dc3#32,
   0x72be5d74#32, 0x80deb1fe#32, 0x9bdc06a7#32, 0xc19bf174#32,
   0xe49b69c1#32, 0xefbe4786#32, 0x0fc19dc6#32, 0x240ca1cc#32,
   0x2de92c6f#32, 0x4a7484aa#32, 0x5cb0a9dc#32, 0x76f988da#32,
   0x983e5152#32, 0xa831c66d#32, 0xb00327c8#32, 0xbf597fc7#32,
   0xc6e00bf3#32, 0xd5a79147#32, 0x06ca6351#32, 0x14292967#32] ++
  [0x27b70a85#32, 0x2e1b2138#32, 0x4d2c6dfc#32, 0x53380d13#32,
   0x650a7354#32, 0x766a0abb#32, 0x81c2c92e#32, 0x92722c85#32,
   0xa2bfe8a1#32, 0xa81a664b#32, 0xc24b8b70#32, 0xc76c51a3#32,
   0xd192e819#32, 0xd6990624#32, 0xf40e3585#32, 0x106aa070#32,
   0x19a4c116#32, 0x1e376c08#32, 0x2748774c#32, 0x34b0bcb5#32,
   0x391c0cb3#32, 0x4ed8aa4a#32, 0x5b9cca4f#32, 0x682e6ff3#32,
   0x748f82ee#32, 0x78a5636f#32, 0x84c87814#32, 0x8cc70208#32,
   0x90befffa#32, 0xa4506ceb#32, 0xbef9a3f7#32, 0xc67178f2#32]

/-- The round constants K512[0..79] (R262). -/
def roundConstants512 : List (BitVec 64) :=
  [0x428a2f98d728ae22#64, 0x7137449123ef65cd#64, 0xb5c0fbcfec4d3b2f#64, 0xe9b5dba58189dbbc#64,
   0x3956c25bf348b538#64, 0x59f111f1b605d019#64, 0x923f82a4af194f9b#64, 0xab1c5ed5da6d8118#64,
   0xd807aa98a3030242#64, 0x12835b0145706fbe#64, 0x243185be4ee4b28c#64, 0x550c7dc3d5ffb4e2#64,
   0x72be5d74f27b896f#64, 0x80deb1fe3b1696b1#64, 0x9bdc06a725c71235#64, 0xc19bf174cf692694#64,
   0xe49b69c19ef14ad2#64, 0xefbe4786384f25e3#64, 0x0fc19dc68b8cd5b5#64, 0x240ca1cc77ac9c65#64] ++
  [0x2de92c6f592b0275#64, 0x4a7484aa6ea6e483#64, 0x5cb0a9dcbd41fbd4#64, 0x76f988da831153b5#64,
   0x983e5152ee66dfab#64, 0xa831c66d2db43210#64, 0xb00327c898fb213f#64, 0xbf597fc7beef0ee4#64,
   0xc6e00bf33da88fc2#64, 0xd5a79147930aa725#64, 0x06ca6351e003826f#64, 0x142929670a0e6e70#64,
   0x27b70a8546d22ffc#64, 0x2e1b21385c26c926#64, 0x4d2c6dfc5ac42aed#64, 0x53380d139d95b3df#64,
   0x650a73548baf63de#64, 0x766a0abb3c77b2a8#64, 0x81c2c92e47edaee6#64, 0x92722c851482353b#64] ++
  [0xa2bfe8a14cf10364#64, 0xa81a664bbc423001#64, 0xc24b8b70d0f89791#64, 0xc76c51a30654be30#64,
   0xd192e819d6ef5218#64, 0xd69906245565a910#64, 0xf40e35855771202a#64, 0x106aa07032bbd1b8#64,
   0x19a4c116b8d2d0c8#64, 0x1e376c085141ab53#64, 0x2748774cdf8eeb99#64, 0x34b0bcb5e19b48a8#64,
   0x391c0cb3c5c95a63#64, 0x4ed8aa4ae3418acb#64, 0x5b9cca4f7763e373#64, 0x682e6ff3d6b2b8a3#64,
   0x748f82ee5defb2fc#64, 0x78a5636f43172f60#64, 0x84c87814a1f0ab72#64, 0x8cc702081a6439ec#64] ++
  [0x90befffa23631e28#64, 0xa4506cebde82bde9#64, 0xbef9a3f7b2c67915#64, 0xc67178f2e372532b#64,
   0xca273eceea26619c#64, 0xd186b8c721c0c207#64, 0xeada7dd6cde0eb1e#64, 0xf57d4f7fee6ed178#64,
   0x06f067aa72176fba#64, 0x0a637dc5a2c898a6#64, 0x113f9804bef90dae#64, 0x1b710b35131c471b#64,
   0x28db77f523047d84#64, 0x32caab7b40c72493#64, 0x3c9ebe0a15c9bebc#64, 0x431d67c49c100d4c#64,
   0x4cc5d4becb3e42b6#64, 0x597f299cfc657e2a#64, 0x5fcb6fab3ad6faec#64, 0x6c44198c4a475817#64]

/-- IV(0), SHA2-224 (R206). -/
def initialWordsSha224 : List (BitVec 32) :=
  [0xc1059ed8#32, 0x367cd507#32, 0x3070dd17#32, 0xf70e5939#32,
   0xffc00b31#32, 0x68581511#32, 0x64f98fa7#32, 0xbefa4fa4#32]

/-- IV(1), SHA2-256 (R207). -/
def initialWordsSha256 : List (BitVec 32) :=
  [0x6a09e667#32, 0xbb67ae85#32, 0x3c6ef372#32, 0xa54ff53a#32,
   0x510e527f#32, 0x9b05688c#32, 0x1f83d9ab#32, 0x5be0cd19#32]

/-- IV(3), SHA2-512 (R263). -/
def initialWordsSha512 : List (BitVec 64) :=
  [0x6a09e667f3bcc908#64, 0xbb67ae8584caa73b#64, 0x3c6ef372fe94f82b#64, 0xa54ff53a5f1d36f1#64,
   0x510e527fade682d1#64, 0x9b05688c2b3e6c1f#64, 0x1f83d9abfb41bd6b#64, 0x5be0cd19137e2179#64]

/-- The schedule's extension by `n` words, newest word first: `w[t] = σ1(w[t-2]) + w[t-7] + σ0(w[t-15]) + w[t-16]`
(R205, R264). The rules start from 16 words; with fewer, a missing word counts as 0 (log 21). -/
def extendSchedule {w : Nat} (s0 s1 : BitVec w → BitVec w) : Nat → List (BitVec w) → List (BitVec w)
  | 0, ws => ws
  | n + 1, ws =>
    extendSchedule s0 s1 n ((s1 (ws.getD 1 0) + ws.getD 6 0 + s0 (ws.getD 14 0) + ws.getD 15 0) :: ws)

/-- The message schedule of `rounds` words from the 16 block words (R205, R264). -/
def schedule {w : Nat} (s0 s1 : BitVec w → BitVec w) (rounds : Nat) (X : List (BitVec w)) : List (BitVec w) :=
  (extendSchedule s0 s1 (rounds - 16) X.reverse).reverse

/-- One round, given its constant and its schedule word (R208, R264). -/
def sha2Round {w : Nat} (S0 S1 : BitVec w → BitVec w) (r : Work8 w) (kw : BitVec w × BitVec w) : Work8 w :=
  let t1 := r.h + S1 r.e + ch r.e r.f r.g + kw.1 + kw.2
  let t2 := S0 r.a + maj r.a r.b r.c
  { a := t1 + t2, b := r.a, c := r.b, d := r.c, e := r.d + t1, f := r.e, g := r.f, h := r.g }

/-- Wordwise addition: the working registers folded into the state (R209, R264). -/
def addWork8 {w : Nat} (x y : Work8 w) : Work8 w :=
  { a := x.a + y.a, b := x.b + y.b, c := x.c + y.c, d := x.d + y.d,
    e := x.e + y.e, f := x.f + y.f, g := x.g + y.g, h := x.h + y.h }

/-- The SHA-2 compression over one block, with one round per round constant (R209, R264). -/
def sha2Compress {w : Nat} (S0 S1 s0 s1 : BitVec w → BitVec w) (K : List (BitVec w)) (hs : Work8 w)
    (X : List (BitVec w)) : Work8 w :=
  addWork8 hs ((K.zip (schedule s0 s1 K.length X)).foldl (sha2Round S0 S1) hs)

/-- The message schedule of SHA2-224 and SHA2-256, 64 words (R205). -/
def schedule256 (X : List Word32) : List Word32 := schedule smallSigma0W32 smallSigma1W32 64 X

/-- The message schedule of SHA2-512, 80 words (R264). -/
def schedule512 (X : List Word64) : List Word64 := schedule smallSigma0W64 smallSigma1W64 80 X

/-- `compress256(hs, X)` (R209). -/
def compress256 (hs : Work8 32) (X : List Word32) : Work8 32 :=
  sha2Compress bigSigma0W32 bigSigma1W32 smallSigma0W32 smallSigma1W32 roundConstants256 hs X

/-- `compress512(hs, X)` (R264). -/
def compress512 (hs : Work8 64) (X : List Word64) : Work8 64 :=
  sha2Compress bigSigma0W64 bigSigma1W64 smallSigma0W64 smallSigma1W64 roundConstants512 hs X

end Sys2Proof.Machine
end

