-- ==== Sys2Proof/Machine/Algorithms.lean ====
section
/-! DEFINITION. The per-algorithm parameters (00_scope R9, R22) and initial values. -/

namespace Sys2Proof.Machine

/-- A row of the parameter table (R9), with the field names of R22. -/
structure AlgParams where
  /-- B, the block size in bytes. -/
  B : Nat
  /-- F, the size of the length field in bytes. -/
  F : Nat
  /-- W, the word size in bytes. -/
  W : Nat
  wordEnd : Endian
  lenEnd : Endian
  digEnd : Endian
  /-- The number of state words. -/
  nH : Nat
  /-- The number of digest words. -/
  nd : Nat
deriving DecidableEq, Repr

/-- `params(alg)` (R9, R22). -/
def algParams : Alg → AlgParams
  | .sha224 => { B := 64, F := 8, W := 4, wordEnd := .be, lenEnd := .be, digEnd := .be, nH := 8, nd := 7 }
  | .sha256 => { B := 64, F := 8, W := 4, wordEnd := .be, lenEnd := .be, digEnd := .be, nH := 8, nd := 8 }
  | .ripemd160 => { B := 64, F := 8, W := 4, wordEnd := .le, lenEnd := .le, digEnd := .le, nH := 5, nd := 5 }
  | .sha512 => { B := 128, F := 16, W := 8, wordEnd := .be, lenEnd := .be, digEnd := .be, nH := 8, nd := 8 }

/-- `IV(alg)`, each word zero-extended to 64 bits (R206, R207, R236, R263, 46_hasher R283). -/
def initialWords : Alg → List Word64
  | .sha224 => initialWordsSha224.map (BitVec.setWidth 64)
  | .sha256 => initialWordsSha256.map (BitVec.setWidth 64)
  | .ripemd160 => initialWordsRipemd160.map (BitVec.setWidth 64)
  | .sha512 => initialWordsSha512

/-- hashLengthBits (46_hasher R280): the digest words, in bits. -/
def hashLengthBits (alg : Alg) : Nat := 8 * ((algParams alg).nd * (algParams alg).W)

/-- nb, the number of digest bytes (46_hasher R280). -/
def digestBytes (alg : Alg) : Nat := hashLengthBits alg / 8

end Sys2Proof.Machine
end

