-- ==== Sys2Proof/Machine/Convert.lean ====
section
/-! DEFINITION. The word conversion unit (40_endian): bytes to words, words to bytes, and the swap of the bytes within
each word. -/

namespace Sys2Proof.Machine

/-- The value of a byte sequence whose first byte is the least significant (R130, LE). -/
def leValue : List Byte → Nat
  | [] => 0
  | b :: bs => b.toNat + 256 * leValue bs

/-- The value of a byte sequence whose first byte is the most significant (R130, BE). -/
def beValue (bs : List Byte) : Nat := leValue bs.reverse

/-- `encLE_n(v)`, the n-byte little-endian representation (00_scope R16). R16 requires v < 2^(8n) and gives no result
for a larger v, which no command has; that the low 8n bits are kept there is the model's choice (log 21). -/
def encLE : Nat → Nat → List Byte
  | 0, _ => []
  | n + 1, v => BitVec.ofNat 8 v :: encLE n (v / 256)

/-- `encBE_n(v)`, the n-byte big-endian representation (00_scope R16), for v < 2^(8n) as `encLE` (log 21). -/
def encBE (n v : Nat) : List Byte := (encLE n v).reverse

/-- The value of the bytes of one word in the given order. -/
def bytesValue : Endian → List Byte → Nat
  | .be, bs => beValue bs
  | .le, bs => leValue bs

/-- The n bytes of a value v < 2^(8n) in the given order (R16; log 21). -/
def encBytes : Endian → Nat → Nat → List Byte
  | .be, n, v => encBE n v
  | .le, n, v => encLE n v

/-- The first `count` groups of `size` elements. -/
def chunks {α : Type} (size : Nat) : Nat → List α → List (List α)
  | 0, _ => []
  | count + 1, xs => xs.take size :: chunks size count (xs.drop size)

/-- A sequence as its groups of `size` elements, in order. A trailing partial group is left out; no command has one
(log 21). -/
def groups {α : Type} (size : Nat) (xs : List α) : List (List α) := chunks size (xs.length / size) xs

/-- `bytesToWords(bs, W, e)` (R130). For a length that is no multiple of W the result is the free value that 93 I14 calls
`any value` (log 13). -/
def bytesToWords (W : Nat) (e : Endian) (bs : List Byte) : List (BitVec (8 * W)) :=
  if bs.length % W = 0 then (groups W bs).map (fun g => BitVec.ofNat (8 * W) (bytesValue e g))
  else Config.nonMultipleWords W e bs

/-- `wordsToBytes(ws, W, e)` (R131). -/
def wordsToBytes (W : Nat) (e : Endian) (ws : List (BitVec (8 * W))) : List Byte :=
  ws.flatMap (fun w => encBytes e W w.toNat)

/-- `swap_W(bs)`: the bytes of every W-byte group reversed, the groups in place (R133). For a length that is no multiple
of W, to which the spec gives no result (R134), the result is a free value (log 13). -/
def swapBytes (W : Nat) (bs : List Byte) : List Byte :=
  if bs.length % W = 0 then (groups W bs).flatMap List.reverse else Config.nonMultipleSwap W bs

/-- `zeros(n)` (00_scope R16). -/
def zeros (n : Nat) : List Byte := List.replicate n 0

end Sys2Proof.Machine
end

