-- ==== Sys2Proof/WellFormed.lean ====
section
/-! DEFINITION. When a command is one the build carries: the only check that the types of `Instr` do not make by
themselves (30_encoding R104, 60_exceptions R321). -/

namespace Sys2Proof

/-- Whether the algorithm has a working body (R12, R104): ALG 0 to 2 always, ALG 3 only with HAS_SHA512. -/
def algBuilt (hasSha512 : Bool) : Alg → Bool
  | .sha224 => true
  | .sha256 => true
  | .ripemd160 => true
  | .sha512 => hasSha512

/-- A command is well formed when the algorithm it selects is built. The reserved ALG and WS values, the unused fields
and RSV cannot be written as an `Instr` at all. -/
def wellFormed (hasSha512 : Bool) : Instr → Bool
  | .init alg => algBuilt hasSha512 alg
  | .hashbuf alg => algBuilt hasSha512 alg
  | .sbegin alg => algBuilt hasSha512 alg
  | .nop | .pad | .compress | .sstep | .bswap _ | .stdig | .clrerr => true

end Sys2Proof
end

