-- ==== Sys2Proof/Machine/State.lean ====
section
/-! DEFINITION. The state of one KEHC instance as plain data (10_state R30), what acts on it from outside, the two ways a
step can stop, and the state after reset (R58). -/

namespace Sys2Proof.Machine

/-- Message memory: the bytes written since reset, in strictly rising address order. An address that is not listed holds
no known value (93 I3): reading it faults (log 4). -/
abbrev Memory := List Host.Cell

/-- The canonical form of memory: addresses strictly rising. No value is excluded, because an unlisted address reads as
no value at all. -/
abbrev Memory.wf (m : Memory) : Prop := m.Pairwise (fun x y => x.1 < y.1)

/-- The hash-state register bank H[0..7], 64 bits each (R32). -/
abbrev Bank := Vector Word64 8

/-- The stream source's answer to StreamOpen (20_memory R80). Its total is below 2^64 by R80. -/
structure OpenAnswer where
  readable : Bool
  lengthKnown : Bool
  total : Word64
deriving DecidableEq, Repr

/-- The stream source's answer to StreamRead (20_memory R81). -/
inductive ReadAnswer where
  | data (bs : List Byte)
  | fault
deriving DecidableEq, Repr

/-- The attached stream source, as the answers it is still going to give to each kind of request, the next one first
(R83, 93 I7: each answer is an input; log 3). When a list is empty the source never answers that request (93 I8). -/
structure StreamSource where
  opens : List OpenAnswer
  reads : List ReadAnswer
deriving DecidableEq, Repr

/-- A request that the engine made on the stream port, with its answer (20_memory R80, R81; 70 R383). -/
inductive PortEvent where
  | opened (answer : OpenAnswer)
  | read (k : Nat) (answer : ReadAnswer)
deriving DecidableEq, Repr

/-- One interaction of the host with the instance (20_memory R88), or one of those R88 lists as outside the spec. -/
inductive HostAccess where
  /-- An aligned 32-bit register write (R75). A write to CMD issues a command (R46). -/
  | regWrite (offset : Nat) (value : Word32)
  /-- An aligned 32-bit register read (R75). -/
  | regRead (offset : Nat)
  /-- A register access of another width, in bits (93 I5). -/
  | regOther (offset width : Nat)
  /-- HostMMWrite (R72). -/
  | mmWrite (addr : Nat) (bs : List Byte)
  /-- HostMMRead (R72). -/
  | mmRead (addr n : Nat)
  /-- Attaching a stream source (R88). -/
  | attach (source : StreamSource)
  /-- Reset, between commands (70 R360). -/
  | reset
  /-- Reset asserted while a command is in progress (93 I6). -/
  | resetDuringCommand
  /-- The stream source is shared with another instance or read by another agent (93 I9). -/
  | sharedSource
deriving DecidableEq, Repr

/-- What an access returns to the host (R88). -/
inductive HostReply where
  | nothing
  | reg (value : Word32)
  | bytes (bs : List Byte)
deriving DecidableEq, Repr

/-- Why the machine stops. -/
inductive Fault where
  /-- Raised by PAD, COMPRESS, HASHBUF, BSWAP and HostMMRead on the lowest address of their source that nothing has
  written since reset. Safe: the spec's own treatment (93 I3, 60 R348), and the hardware goes on with some value. -/
  | unwrittenByte (addr : Nat)
  /-- Raised by SBEGIN and SSTEP when the stream source never answers the request: the stuck state of 93 I8 (20_memory
  R83, 60 R348 hang). Safe: the command never completes in the hardware either. -/
  | streamNeverAnswers
deriving DecidableEq, Repr

/-- What the model gives no meaning. -/
inductive Refusal where
  /-- Raised by `exec` for an instruction that has no meaning yet. Safe. No arm raises it. -/
  | notModelled (mnemonic : String)
  /-- Raised by a register access that is not 32 bits wide, not aligned, or beyond offset 0xFFF (93 I5). Safe. -/
  | registerAccess (offset width : Nat)
  /-- Raised by a host-port access outside MM (93 I4). Safe. -/
  | hostPortRange (addr n : Nat)
  /-- Raised by a reset asserted during a command (93 I6). Safe. -/
  | resetDuringCommand
  /-- Raised when the stream source is shared (93 I9). Safe. -/
  | sharedStreamSource
deriving DecidableEq, Repr

/-- The state of one instance. The first part is the architectural state of R30. The last part is the model's own: the
parameters (log 1), the outside world's inputs (logs 2 and 3) and what the outside world has seen (log 12). -/
structure State where
  /-- H[0..7] (R32). -/
  h : Bank
  /-- ALG (R35), held by name (log 8). -/
  alg : Alg
  /-- ALGV (R35). -/
  algv : Bool
  /-- A0, the source address (R36). -/
  a0 : Word32
  /-- A1, the destination address (R36). -/
  a1 : Word32
  /-- A2, the length or count (R36). -/
  a2 : Word32
  /-- PLEN (R37). -/
  plen : Word64
  /-- MLEN (R39). -/
  mlen : Word64
  /-- BCNT (R40). -/
  bcnt : Word64
  /-- SACT (R38). -/
  sact : Bool
  /-- PINJ (R38). -/
  pinj : Bool
  /-- SDONE (R38). -/
  sdone : Bool
  /-- ERR (R41). -/
  err : Bool
  /-- CAUSE (R41, R43). -/
  cause : BitVec 4
  /-- MM (20_memory R70). -/
  mm : Memory
  /-- The parameters, which no step changes. -/
  params : Params
  /-- The attached stream source. -/
  source : StreamSource
  /-- The stream-port requests made so far, oldest first. -/
  port : List PortEvent
  /-- The host accesses still to be performed, oldest first. -/
  pending : List HostAccess
  /-- What the last access returned to the host. -/
  reply : HostReply
deriving DecidableEq, Repr

/-- The state right after reset of an instance with the given parameters (R58, R360): every register zero, no byte of
MM written, no stream source attached and no host access waiting. -/
def State.resetWith (p : Params) : State :=
  { h := #v[0, 0, 0, 0, 0, 0, 0, 0]
    alg := .sha224
    algv := false
    a0 := 0
    a1 := 0
    a2 := 0
    plen := 0
    mlen := 0
    bcnt := 0
    sact := false
    pinj := false
    sdone := false
    err := false
    cause := 0
    mm := []
    params := p
    source := { opens := [], reads := [] }
    port := []
    pending := []
    reply := .nothing }

/-- The state right after reset, with the parameters of `Config.defaultParams` (log 1). -/
def State.reset : State := State.resetWith Config.defaultParams

end Sys2Proof.Machine
end

