-- ==== Sys2Proof/Machine/HashState.lean ====
section
/-! DEFINITION. The per-algorithm functions on the hash-state register bank: initialState, processBlock and digest
(46_hasher R281-R283). -/

namespace Sys2Proof.Machine

/-- A bank from the low end of a list of at most eight words; a register past its end is 0 (R283), and a ninth word, which
no initial value has, is left out (log 21). -/
def bankOfList (ws : List Word64) : Bank :=
  #v[ws.getD 0 0, ws.getD 1 0, ws.getD 2 0, ws.getD 3 0, ws.getD 4 0, ws.getD 5 0, ws.getD 6 0, ws.getD 7 0]

/-- `initialState(alg)`: IV(alg) in the first nH registers and 0 in the others (R283). -/
def initialState (alg : Alg) : Bank := bankOfList (initialWords alg)

/-- The eight state words of a SHA-2 algorithm of word width w: H[i][w-1:0] (10_state R32). -/
def loadWork8 (w : Nat) (h : Bank) : Work8 w :=
  { a := h[0].setWidth w, b := h[1].setWidth w, c := h[2].setWidth w, d := h[3].setWidth w,
    e := h[4].setWidth w, f := h[5].setWidth w, g := h[6].setWidth w, h := h[7].setWidth w }

/-- Eight new state words, each zero-extended to 64 bits (10_state R33). -/
def storeWork8 {w : Nat} (r : Work8 w) : Bank :=
  #v[r.a.setWidth 64, r.b.setWidth 64, r.c.setWidth 64, r.d.setWidth 64,
     r.e.setWidth 64, r.f.setWidth 64, r.g.setWidth 64, r.h.setWidth 64]

/-- The five state words of RIPEMD-160: H[i][31:0] for i = 0..4 (10_state R32). -/
def loadWork5 (h : Bank) : Work5 :=
  { a := h[0].setWidth 32, b := h[1].setWidth 32, c := h[2].setWidth 32, d := h[3].setWidth 32, e := h[4].setWidth 32 }

/-- Five new state words, each zero-extended to 64 bits; H[5..7] keep their values (10_state R33, 44 R239). -/
def storeWork5 (old : Bank) (r : Work5) : Bank :=
  #v[r.a.setWidth 64, r.b.setWidth 64, r.c.setWidth 64, r.d.setWidth 64, r.e.setWidth 64, old[5], old[6], old[7]]

/-- A block's update of the bank by compress256, words big-endian (43 R209, R211). -/
def process256 (h : Bank) (block : List Byte) : Bank :=
  storeWork8 (compress256 (loadWork8 32 h) (bytesToWords 4 .be block))

/-- A block's update of the bank by compress160, words little-endian (44 R237, R238). -/
def process160 (h : Bank) (block : List Byte) : Bank :=
  storeWork5 h (compress160 (loadWork5 h) (bytesToWords 4 .le block))

/-- A block's update of the bank by compress512, words big-endian (45 R264, R265). -/
def process512 (h : Bank) (block : List Byte) : Bank :=
  storeWork8 (compress512 (loadWork8 64 h) (bytesToWords 8 .be block))

/-- `processBlock(alg, H, block)` for a block of B bytes (R281). No command gives it another length (log 21). -/
def processBlock : Alg → Bank → List Byte → Bank
  | .sha224 => process256
  | .sha256 => process256
  | .ripemd160 => process160
  | .sha512 => process512

/-- The blocks of a byte sequence folded into the bank in order (R287, R288, R291). Every command gives it whole blocks
(log 21). -/
def processBlocks (alg : Alg) (h : Bank) (bs : List Byte) : Bank :=
  (groups (algParams alg).B bs).foldl (processBlock alg) h

/-- The first `n` state words, each of 8W bits (10_state R32). -/
def stateWords (W n : Nat) (h : Bank) : List (BitVec (8 * W)) := (h.toList.take n).map (BitVec.setWidth (8 * W))

/-- `digest(alg, H)` (R282). -/
def digest (alg : Alg) (h : Bank) : List Byte :=
  wordsToBytes (algParams alg).W (algParams alg).digEnd (stateWords (algParams alg).W (algParams alg).nd h)

end Sys2Proof.Machine
end

