-- ==== Sys2Proof/Machine/Ops.lean ====
section
/-! DEFINITION. The named operations on memory and registers that the meanings are written over: reading and writing
ranges of MM (00_scope R18), the error entry (60_exceptions R330) and the return from it (R334), INIT_EFFECTS
(46_hasher R285), and the updates of the stream cursor. -/

namespace Sys2Proof.Machine

/-- What one command or one host access answers. -/
abbrev Result := Host.Outcome State Fault Refusal

/-! ### Message memory -/

/-- The byte at an address, if it has been written since reset (20_memory R70, 93 I3). -/
def memByte : Memory → Nat → Option Byte
  | [], _ => none
  | (x, v) :: m, a => if a = x then some v else memByte m a

/-- One byte written, keeping the canonical form. -/
def memPut : Memory → Nat → Byte → Memory
  | [], a, b => [(a, b)]
  | (x, v) :: m, a, b =>
    if a < x then (a, b) :: (x, v) :: m
    else if a = x then (a, b) :: m
    else (x, v) :: memPut m a b

/-- `MemWrite(addr, |bs|, bs)` (00_scope R18). -/
def memWrite : Memory → Nat → List Byte → Memory
  | m, _, [] => m
  | m, a, b :: bs => memWrite (memPut m a b) (a + 1) bs

/-- `MemRead(addr, n)` (00_scope R18): the bytes, or the lowest address in the range that holds no known value. -/
def memRead (m : Memory) : Nat → Nat → Except Nat (List Byte)
  | _, 0 => .ok []
  | a, n + 1 =>
    match memByte m a with
    | none => .error a
    | some b =>
      match memRead m (a + 1) n with
      | .error x => .error x
      | .ok bs => .ok (b :: bs)

/-- Whether the range of n bytes at a lies inside MM, in exact arithmetic (20_memory R71). -/
def inMM (s : State) (a n : Nat) : Bool := decide (a + n ≤ s.params.mmSize)

/-- A command that reads its whole source before anything else happens (20_memory R89): it goes on with the bytes, or
faults on a byte that nothing has written (93 I3). -/
def withBytes (s : State) (a n : Nat) (k : List Byte → Result) : Result :=
  match memRead s.mm a n with
  | .error x => .fault (.unwrittenByte x)
  | .ok bs => k bs

/-! ### The error state -/

/-- The code of an error (60_exceptions R320). -/
def errorNumber : ErrorCode → BitVec 4
  | .invalidLength => 1
  | .streamUnreadable => 2
  | .lengthRequired => 3
  | .notImplemented => 4
  | .illegalCommand => 5
  | .addressRange => 6
  | .sequenceError => 7
  | .lengthMismatch => 8
  | .lengthRange => 9
  | .streamFault => 10

/-- Error entry (60_exceptions R330): ERR, CAUSE and the stream cursor, and nothing else. -/
def raiseError (e : ErrorCode) (s : State) : State :=
  { s with err := true, cause := errorNumber e, sact := false, pinj := false, sdone := false }

/-- The end of the error state (60_exceptions R334, 46_hasher R290). -/
def clearError (s : State) : State := { s with err := false, cause := 0 }

/-- A command that the error gate drops while ERR = 1 (60_exceptions R333). -/
def gated (s : State) (k : Result) : Result := if s.err then .next s else k

/-- A command that needs its algorithm built, else NOT_IMPLEMENTED (60_exceptions R321). Decoding has checked the same
before `exec` runs (log 10). -/
def withBuilt (alg : Alg) (s : State) (k : Result) : Result :=
  if algBuilt s.params.hasSha512 alg then k else .next (raiseError .notImplemented s)

/-! ### Register updates -/

/-- MM replaced. -/
def setMM (m : Memory) (s : State) : State := { s with mm := m }

/-- H replaced. -/
def setH (h : Bank) (s : State) : State := { s with h := h }

/-- PLEN replaced by a length below 2^64 (10_state R37), which every padLen is (log 21). -/
def setPlen (n : Nat) (s : State) : State := { s with plen := BitVec.ofNat 64 n }

/-- INIT_EFFECTS(alg) (46_hasher R285). -/
def initEffects (alg : Alg) (s : State) : State :=
  { s with
    alg := alg, algv := true, h := initialState alg, plen := 0, mlen := 0, bcnt := 0,
    sact := false, pinj := false, sdone := false, err := false, cause := 0 }

/-- What SBEGIN adds to INIT_EFFECTS: the declared length, and the cursor open (42_stream R172). -/
def openStream (total : Word64) (s : State) : State :=
  { s with mlen := total, bcnt := 0, sact := true, pinj := false, sdone := false }

/-- What a successful SSTEP writes: H, the consumed bytes, PINJ when the padding byte went in, and SDONE and SACT when
the footer did (42_stream R173, R180). -/
def advanceStream (h : Bank) (n : Nat) (inj done : Bool) (s : State) : State :=
  { s with
    h := h, bcnt := s.bcnt + BitVec.ofNat 64 n, pinj := s.pinj || inj,
    sdone := s.sdone || done, sact := s.sact && !done }

/-! ### The stream port -/

/-- StreamOpen answered (20_memory R80): the answer is used up and the request is on record. -/
def tookOpen (answer : OpenAnswer) (rest : List OpenAnswer) (s : State) : State :=
  { s with source := { s.source with opens := rest }, port := s.port ++ [.opened answer] }

/-- StreamRead(k) answered (20_memory R81): the answer is used up and the request is on record. -/
def tookRead (k : Nat) (answer : ReadAnswer) (rest : List ReadAnswer) (s : State) : State :=
  { s with source := { s.source with reads := rest }, port := s.port ++ [.read k answer] }

/-- The request StreamOpen: waits for the source's answer (R80); a source that never answers leaves the machine stuck
(R83, 93 I8). -/
def withOpen (s : State) (k : OpenAnswer → State → Result) : Result :=
  match s.source.opens with
  | [] => .fault .streamNeverAnswers
  | answer :: rest => k answer (tookOpen answer rest s)

/-- The request StreamRead(n): waits for the source's answer (R81); a source that never answers leaves the machine
stuck (R83, 93 I8). -/
def withRead (s : State) (n : Nat) (k : ReadAnswer → State → Result) : Result :=
  match s.source.reads with
  | [] => .fault .streamNeverAnswers
  | answer :: rest => k answer (tookRead n answer rest s)

/-! ### The host's side -/

/-- The reply of an access set. -/
def setReply (r : HostReply) (s : State) : State := { s with reply := r }

/-- The waiting accesses set. -/
def setPending (l : List HostAccess) (s : State) : State := { s with pending := l }

/-- A stream source attached (20_memory R88). -/
def attachSource (src : StreamSource) (s : State) : State := { s with source := src }

/-- Reset (70_reset R360): every register at its reset value, and MM unspecified again, so that no byte is listed
(log 5). The parameters are constants, and the stream source, its port and the host are not KEHC's (R362). -/
def resetEngine (s : State) : State :=
  { State.resetWith s.params with source := s.source, port := s.port, pending := s.pending, reply := s.reply }

/-- A0 written by the host (10_state R49). -/
def setA0 (v : Word32) (s : State) : State := { s with a0 := v }

/-- A1 written by the host (10_state R49). -/
def setA1 (v : Word32) (s : State) : State := { s with a1 := v }

/-- A2 written by the host (10_state R49). -/
def setA2 (v : Word32) (s : State) : State := { s with a2 := v }

/-- Bits 31:0 of a register replaced, the other half kept (10_state R34). -/
def replaceLow (old : Word64) (v : Word32) : Word64 := old.extractLsb' 32 32 ++ v

/-- Bits 63:32 of a register replaced, the other half kept (10_state R34). -/
def replaceHigh (old : Word64) (v : Word32) : Word64 := v ++ old.extractLsb' 0 32

/-- H[i] replaced, for i < 8; past H[7] nothing is written, and no access names such a register (log 21). -/
def setHReg (i : Nat) (v : Word64) (s : State) : State := { s with h := s.h.setIfInBounds i v }

end Sys2Proof.Machine
end

