-- ==== Sys2Proof/Machine/Operands.lean ====
section
/-! DEFINITION. Operand assembly (30_encoding R108): the operand registers as natural numbers, and the ranges that the
commands check (60_exceptions R326). Every address is absolute (46_hasher R297). -/

namespace Sys2Proof.Machine

/-- The source address, A0 (R108). -/
def srcAddr (s : State) : Nat := s.a0.toNat

/-- The destination address, A1 (R108). -/
def dstAddr (s : State) : Nat := s.a1.toNat

/-- The length in bytes, or for COMPRESS the number of blocks, A2 (R108). -/
def lenArg (s : State) : Nat := s.a2.toNat

/-- The bytes of a word of the given size (30_encoding R105, 40_endian R135). -/
def wordSizeBytes : WordSize → Nat
  | .w32 => 4
  | .w64 => 8

/-- The bytes that COMPRESS reads: the one operand that is scaled (R108). -/
def compressBytes (s : State) : Nat := lenArg s * (algParams s.alg).B

/-- The bytes SSTEP asks for: the rest of the declared length, at most one block (42_stream R174; log 6). -/
def stepBytes (s : State) : Nat := min (algParams s.alg).B (s.mlen.toNat - s.bcnt.toNat)

end Sys2Proof.Machine
end

