-- ==== Sys2Proof/Machine/Endian.lean ====
section
/-! DEFINITION. The word endian-swap unit's command: BSWAP (40_endian R135). -/

namespace Sys2Proof.Machine

/-- BSWAP (R135): INVALID_LENGTH before ADDRESS_RANGE, then the bytes of each word reversed in place. It needs no
algorithm and touches no register. -/
def execBswap (ws : WordSize) (s : State) : Result :=
  gated s
    (if lenArg s % wordSizeBytes ws ≠ 0 then .next (raiseError .invalidLength s)
     else if !inMM s (srcAddr s) (lenArg s) then .next (raiseError .addressRange s)
     else
       withBytes s (srcAddr s) (lenArg s) (fun src =>
         .next (setMM (memWrite s.mm (srcAddr s) (swapBytes (wordSizeBytes ws) src)) s)))

end Sys2Proof.Machine
end

