-- ==== Sys2Proof/Machine/Padding.lean ====
section
/-! DEFINITION. The Merkle-Damgård padding engine (41_padding): padLen, lenField, pad, and the command PAD. -/

namespace Sys2Proof.Machine

/-- `padLen(L, alg)` by its closed form `B * ceil((L + 1 + F) / B)` (R151). -/
def padLen (L : Nat) (alg : Alg) : Nat :=
  (algParams alg).B * ((L + 1 + (algParams alg).F + ((algParams alg).B - 1)) / (algParams alg).B)

/-- `lenField(L, alg)`: the bit length modulo 2^64 in the F-byte footer (R152). -/
def lenField (L : Nat) (alg : Alg) : List Byte :=
  encBytes (algParams alg).lenEnd (algParams alg).F ((8 * L) % 2 ^ 64)

/-- `pad(msg, alg)`: the message, the byte 0x80, zeros, and the footer in the last F bytes (R153). -/
def pad (msg : List Byte) (alg : Alg) : List Byte :=
  msg ++ [0x80] ++ zeros (padLen msg.length alg - (algParams alg).F - (msg.length + 1)) ++ lenField msg.length alg

/-- PAD (R155): SEQUENCE_ERROR without an algorithm, then the source range, then the destination range. The source is
read as it stood before (20_memory R89). -/
def execPad (s : State) : Result :=
  gated s
    (if !s.algv then .next (raiseError .sequenceError s)
     else if !inMM s (srcAddr s) (lenArg s) then .next (raiseError .addressRange s)
     else if !inMM s (dstAddr s) (padLen (lenArg s) s.alg) then .next (raiseError .addressRange s)
     else
       withBytes s (srcAddr s) (lenArg s) (fun msg =>
         .next (setPlen (padLen (lenArg s) s.alg) (setMM (memWrite s.mm (dstAddr s) (pad msg s.alg)) s))))

end Sys2Proof.Machine
end

