-- ==== Sys2Proof/Machine/Hasher.lean ====
section
/-! DEFINITION. The commands on the hash-state register bank, the digest and the error state: NOP, INIT, COMPRESS,
HASHBUF, STDIG and CLRERR (46_hasher). -/

namespace Sys2Proof.Machine

/-- NOP (R284): no effect, also while ERR = 1. -/
def execNop (s : State) : Result := .next s

/-- INIT (R285): ungated. -/
def execInit (alg : Alg) (s : State) : Result := withBuilt alg s (.next (initEffects alg s))

/-- COMPRESS (R287): SEQUENCE_ERROR without an algorithm or during a stream hash, then the range; then A2 blocks folded
into H in address order. -/
def execCompress (s : State) : Result :=
  gated s
    (if !s.algv then .next (raiseError .sequenceError s)
     else if s.sact then .next (raiseError .sequenceError s)
     else if !inMM s (srcAddr s) (compressBytes s) then .next (raiseError .addressRange s)
     else
       withBytes s (srcAddr s) (compressBytes s) (fun data => .next (setH (processBlocks s.alg s.h data) s)))

/-- The bank after the buffer path's hash of a message: the padded message folded into the initial value (R288, R291). -/
def bufferState (alg : Alg) (msg : List Byte) : Bank := processBlocks alg (initialState alg) (pad msg alg)

/-- HASHBUF (R288): ungated; the padded message is virtual and MM is not written. -/
def execHashbuf (alg : Alg) (s : State) : Result :=
  withBuilt alg s
    (if !inMM s (srcAddr s) (lenArg s) then .next (raiseError .addressRange s)
     else
       withBytes s (srcAddr s) (lenArg s) (fun msg =>
         .next (setPlen (padLen (lenArg s) alg) (setH (bufferState alg msg) (initEffects alg s)))))

/-- STDIG (R289): SEQUENCE_ERROR without an algorithm or during a stream hash, then the range; then the digest stored
at A1. -/
def execStdig (s : State) : Result :=
  gated s
    (if !s.algv then .next (raiseError .sequenceError s)
     else if s.sact then .next (raiseError .sequenceError s)
     else if !inMM s (dstAddr s) (digestBytes s.alg) then .next (raiseError .addressRange s)
     else .next (setMM (memWrite s.mm (dstAddr s) (digest s.alg s.h)) s))

/-- CLRERR (R290): ungated; the stream cursor is not restored. -/
def execClrerr (s : State) : Result := .next (clearError s)

end Sys2Proof.Machine
end

