-- ==== Sys2Proof/Machine/Stream.lean ====
section
/-! DEFINITION. The streaming block reader: SBEGIN and SSTEP (42_stream). -/

namespace Sys2Proof.Machine

/-- SBEGIN (R172): ungated. After StreamOpen is answered, STREAM_UNREADABLE, LENGTH_REQUIRED and LENGTH_RANGE in this
order (60_exceptions R327). -/
def execSbegin (alg : Alg) (s : State) : Result :=
  withBuilt alg s
    (withOpen s (fun answer s' =>
      if !answer.readable then .next (raiseError .streamUnreadable s')
      else if !answer.lengthKnown then .next (raiseError .lengthRequired s')
      else if answer.total.toNat ≥ 2 ^ 61 then .next (raiseError .lengthRange s')
      else .next (openStream answer.total (initEffects alg s'))))

/-- Whether the padding byte goes into this block (R176). -/
def injects (alg : Alg) (pinj : Bool) (n : Nat) : Bool := decide (n < (algParams alg).B) && !pinj

/-- The fill point of the block (R177). -/
def fillPoint (alg : Alg) (pinj : Bool) (n : Nat) : Nat := if injects alg pinj n then n + 1 else n

/-- Whether the footer goes into this block (R178). -/
def placesFooter (alg : Alg) (pinj : Bool) (n : Nat) : Bool :=
  decide (fillPoint alg pinj n + (algParams alg).F + Config.streamMargin ≤ (algParams alg).B)

/-- The block buffer from the bytes delivered: zero-filled (R175), with the padding byte (R176) and the footer (R178)
where they go in. The bytes delivered are at most B (log 21). -/
def streamBuffer (alg : Alg) (mlen : Nat) (pinj : Bool) (bs : List Byte) : List Byte :=
  let B := (algParams alg).B
  let filled := bs ++ zeros (B - bs.length)
  let padded := if injects alg pinj bs.length then filled.set bs.length 0x80 else filled
  if placesFooter alg pinj bs.length then padded.take (B - (algParams alg).F) ++ lenField mlen alg else padded

/-- SSTEP (R173): SEQUENCE_ERROR without an open stream, before any request; then StreamRead(k), STREAM_FAULT or
LENGTH_MISMATCH, and one block compressed. -/
def execSstep (s : State) : Result :=
  gated s
    (if !s.sact then .next (raiseError .sequenceError s)
     else
       withRead s (stepBytes s) (fun answer s' =>
         match answer with
         | .fault => .next (raiseError .streamFault s')
         | .data bs =>
           if bs.length ≠ stepBytes s then .next (raiseError .lengthMismatch s')
           else
             .next (advanceStream (processBlock s.alg s.h (streamBuffer s.alg s.mlen.toNat s.pinj bs)) bs.length
               (injects s.alg s.pinj bs.length) (placesFooter s.alg s.pinj bs.length) s')))

end Sys2Proof.Machine
end

