-- ==== Sys2Proof/Machine/Dispatch.lean ====
section
/-! DEFINITION. What a command does, one arm per constructor of `Instr`. -/

namespace Sys2Proof.Machine

/-- One command executed (46_hasher R295). -/
def exec (i : Instr) (s : State) : Host.Outcome State Fault Refusal :=
  match i with
  | .nop => Sys2Proof.Machine.execNop s
  | .init alg => Sys2Proof.Machine.execInit alg s
  | .pad => Sys2Proof.Machine.execPad s
  | .compress => Sys2Proof.Machine.execCompress s
  | .hashbuf alg => Sys2Proof.Machine.execHashbuf alg s
  | .sbegin alg => Sys2Proof.Machine.execSbegin alg s
  | .sstep => Sys2Proof.Machine.execSstep s
  | .bswap ws => Sys2Proof.Machine.execBswap ws s
  | .stdig => Sys2Proof.Machine.execStdig s
  | .clrerr => Sys2Proof.Machine.execClrerr s

end Sys2Proof.Machine
end

