-- ==== Sys2Proof/Decode.lean ====
section
/-! DEFINITION. The command word: its fields (30_encoding R101), decoding (R107) and encoding (R102, R113). -/

namespace Sys2Proof

/-- OP, bits 7:0 (R101). -/
def opField (c : Word32) : BitVec 8 := c.extractLsb' 0 8

/-- ALG, bits 10:8 (R101). -/
def algField (c : Word32) : BitVec 3 := c.extractLsb' 8 3

/-- WS, bits 12:11 (R101). -/
def wsField (c : Word32) : BitVec 2 := c.extractLsb' 11 2

/-- RSV, bits 31:13 (R101). -/
def rsvField (c : Word32) : BitVec 19 := c.extractLsb' 13 19

/-- The ALG code of an algorithm (R104). -/
def algCode : Alg → BitVec 3
  | .sha224 => 0
  | .sha256 => 1
  | .ripemd160 => 2
  | .sha512 => 3

/-- The algorithm of an ALG code. Codes 4 to 7 are reserved (R104). -/
def algOfCode (a : BitVec 3) : Option Alg :=
  if a = 0 then some .sha224
  else if a = 1 then some .sha256
  else if a = 2 then some .ripemd160
  else if a = 3 then some .sha512
  else none

/-- The WS code of a word size (R105). -/
def wsCode : WordSize → BitVec 2
  | .w32 => 0
  | .w64 => 1

/-- The word size of a WS code. Codes 2 and 3 are reserved (R105). -/
def wsOfCode (w : BitVec 2) : Option WordSize :=
  if w = 0 then some .w32
  else if w = 1 then some .w64
  else none

/-- The three starting commands by their OP (R107, 00_scope R23). -/
def startingInstr (op : BitVec 8) (alg : Alg) : Instr :=
  if op = 0x01 then .init alg
  else if op = 0x04 then .hashbuf alg
  else .sbegin alg

/-- The commands that take no field, by their OP (R102). -/
def plainInstr (op : BitVec 8) : Option Instr :=
  if op = 0x00 then some .nop
  else if op = 0x02 then some .pad
  else if op = 0x03 then some .compress
  else if op = 0x06 then some .sstep
  else if op = 0x08 then some .stdig
  else if op = 0x09 then some .clrerr
  else none

/-- Decoding, total on every 32-bit word, in the order of R107's checks. -/
def decode (hasSha512 : Bool) (c : Word32) : Except ErrorCode Instr :=
  let op := opField c
  if op.toNat > 0x09 then .error .illegalCommand
  else if rsvField c ≠ 0 then .error .illegalCommand
  else if op = 0x01 ∨ op = 0x04 ∨ op = 0x05 then
    if wsField c ≠ 0 then .error .illegalCommand
    else
      match algOfCode (algField c) with
      | none => .error .illegalCommand
      | some alg =>
        if algBuilt hasSha512 alg then .ok (startingInstr op alg) else .error .notImplemented
  else if op = 0x07 then
    if algField c ≠ 0 then .error .illegalCommand
    else
      match wsOfCode (wsField c) with
      | none => .error .illegalCommand
      | some ws => .ok (.bswap ws)
  else if algField c ≠ 0 ∨ wsField c ≠ 0 then .error .illegalCommand
  else
    match plainInstr op with
    | none => .error .illegalCommand
    | some i => .ok i

/-- The OP of a command (R102). -/
def opcode : Instr → BitVec 8
  | .nop => 0x00
  | .init _ => 0x01
  | .pad => 0x02
  | .compress => 0x03
  | .hashbuf _ => 0x04
  | .sbegin _ => 0x05
  | .sstep => 0x06
  | .bswap _ => 0x07
  | .stdig => 0x08
  | .clrerr => 0x09

/-- A word of format C from its fields, RSV zero (R101). -/
def formatC (op : BitVec 8) (alg : BitVec 3) (ws : BitVec 2) : Word32 :=
  (0 : BitVec 19) ++ ws ++ alg ++ op

/-- The word of a command (R101, R113). -/
def encode (i : Instr) : Word32 :=
  match i with
  | .init alg => formatC (opcode i) (algCode alg) 0
  | .hashbuf alg => formatC (opcode i) (algCode alg) 0
  | .sbegin alg => formatC (opcode i) (algCode alg) 0
  | .bswap ws => formatC (opcode i) 0 (wsCode ws)
  | .nop | .pad | .compress | .sstep | .stdig | .clrerr => formatC (opcode i) 0 0

/-- The host's window on the decoder: a command is one 32-bit word (R100), so the bits are the word itself. SHA2-512 is
taken as built, so that the decoder accepts every word that some build accepts. -/
def decodeTableWord (nbits w : Nat) : Option Instr :=
  match decode true (BitVec.ofNat 32 (w % 2 ^ nbits)) with
  | .ok i => some i
  | .error _ => none

end Sys2Proof
end

