-- ==== Sys2Proof/Machine/Flags.lean ====
section
/-! DEFINITION. STATUS, CAUSE, ID, MMSIZE and the DIGEST window as the host reads them (10_state R42-R47), and the set of
commands the error gate lets through (60_exceptions R333). -/

namespace Sys2Proof.Machine

/-- STATUS (R42): reserved zeros, ALG 7:5, SDONE 4, PINJ 3, SACT 2, ALGV 1, ERR 0. -/
def statusWord (s : State) : Word32 :=
  (0 : BitVec 24) ++ algCode s.alg ++ BitVec.ofBool s.sdone ++ BitVec.ofBool s.pinj ++ BitVec.ofBool s.sact ++
    BitVec.ofBool s.algv ++ BitVec.ofBool s.err

/-- CAUSE (R43). -/
def causeWord (s : State) : Word32 := s.cause.setWidth 32

/-- ID (R44): VERSION = 0x01 and HAS_SHA512 in bit 8. -/
def idWord (p : Params) : Word32 := (0 : BitVec 23) ++ BitVec.ofBool p.hasSha512 ++ (0x01 : BitVec 8)

/-- MMSIZE (R45), for an MM_SIZE in R10's bounds (Params.wf; log 21). -/
def mmSizeWord (p : Params) : Word32 := BitVec.ofNat 32 p.mmSize

/-- Whether the DIGEST window shows the digest (R47): no error, an algorithm, and no stream in progress. -/
def digestShown (s : State) : Bool := !s.err && s.algv && !s.sact

/-- The byte `j` of the DIGEST window when it shows the digest: the digest, then zeros (R47). -/
def digestByte (s : State) (j : Nat) : Byte := (digest s.alg s.h).getD j 0

/-- DIGEST{k} (R47): digest byte 4k + j in bits 8j+7:8j. -/
def digestWord (s : State) (k : Nat) : Word32 :=
  if digestShown s then
    digestByte s (4 * k + 3) ++ digestByte s (4 * k + 2) ++ digestByte s (4 * k + 1) ++ digestByte s (4 * k)
  else 0

/-- The OPs that the error gate lets through: NOP, INIT, HASHBUF, SBEGIN, CLRERR (60_exceptions R333). -/
def ungatedOp (op : BitVec 8) : Bool := op == 0x00 || op == 0x01 || op == 0x04 || op == 0x05 || op == 0x09

/-- Whether the error gate drops a command word (60_exceptions R333): it tests only ERR and OP. -/
def gateDrops (s : State) (c : Word32) : Bool := s.err && !ungatedOp (opField c)

end Sys2Proof.Machine
end

