-- ==== Sys2Proof/Machine/HostPort.lean ====
section
/-! DEFINITION. The host's accesses (20_memory R88): the register space (10_state R56), the CMD register with the error
gate and decoding (10_state R46, 60_exceptions R333), the host port on MM (20_memory R72), attaching a stream source,
and reset. -/

namespace Sys2Proof.Machine

/-- Whether an offset can be accessed: aligned and inside the 4 KiB register space (20_memory R75). -/
def validOffset (o : Nat) : Bool := o % 4 == 0 && decide (o ≤ 0xFFC)

/-- H[i], 0 for an index past the bank, which no command and no access names (log 21). -/
def bankReg (h : Bank) (i : Nat) : Word64 := h.toList.getD i 0

/-- Bits 31:0 of a 64-bit register (R48, R56). -/
def lowHalf (v : Word64) : Word32 := v.extractLsb' 0 32

/-- Bits 63:32 of a 64-bit register (R48, R56). -/
def highHalf (v : Word64) : Word32 := v.extractLsb' 32 32

/-- The 32-bit value a read of an aligned offset returns (R56). Reserved offsets and CMD read 0 (R46, R57). -/
def regRead (s : State) (o : Nat) : Word32 :=
  if o = 0x004 then statusWord s
  else if o = 0x008 then causeWord s
  else if o = 0x00C then idWord s.params
  else if o = 0x010 then mmSizeWord s.params
  else if o = 0x020 then s.a0
  else if o = 0x024 then s.a1
  else if o = 0x028 then s.a2
  else if o = 0x030 then lowHalf s.plen
  else if o = 0x034 then highHalf s.plen
  else if o = 0x038 then lowHalf s.mlen
  else if o = 0x03C then highHalf s.mlen
  else if o = 0x040 then lowHalf s.bcnt
  else if o = 0x044 then highHalf s.bcnt
  else if 0x080 ≤ o ∧ o < 0x0C0 then
    if o % 8 = 0 then lowHalf (bankReg s.h ((o - 0x080) / 8)) else highHalf (bankReg s.h ((o - 0x080) / 8))
  else if 0x0C0 ≤ o ∧ o < 0x100 then digestWord s ((o - 0x0C0) / 4)
  else 0

/-- A write to an aligned offset other than CMD (R34, R49, R57): the read-write registers take the value, and every
other offset ignores it. -/
def regWrite (s : State) (o : Nat) (v : Word32) : State :=
  if o = 0x020 then setA0 v s
  else if o = 0x024 then setA1 v s
  else if o = 0x028 then setA2 v s
  else if 0x080 ≤ o ∧ o < 0x0C0 then
    if o % 8 = 0 then setHReg ((o - 0x080) / 8) (replaceLow (bankReg s.h ((o - 0x080) / 8)) v) s
    else setHReg ((o - 0x080) / 8) (replaceHigh (bankReg s.h ((o - 0x080) / 8)) v) s
  else s

/-- A write of a word to CMD (R46): the error gate, then decoding, then the command (60_exceptions R333). A word that
does not decode raises the decoder's error (30_encoding R107). -/
def commandWrite (c : Word32) (s : State) : Result :=
  if gateDrops s c then .next s
  else
    match decode s.params.hasSha512 c with
    | .error e => .next (raiseError e s)
    | .ok i => exec i s

/-- HostMMRead (20_memory R72). -/
def hostMMRead (a n : Nat) (s : State) : Result :=
  if !inMM s a n then .refused (.hostPortRange a n)
  else withBytes s a n (fun bs => .next (setReply (.bytes bs) s))

/-- HostMMWrite (20_memory R72). -/
def hostMMWrite (a : Nat) (bs : List Byte) (s : State) : Result :=
  if !inMM s a bs.length then .refused (.hostPortRange a bs.length)
  else .next (setMM (memWrite s.mm a bs) s)

/-- One access performed, on a state whose reply is `nothing` (R88). -/
def hostAccess (a : HostAccess) (s : State) : Result :=
  match a with
  | .regWrite o v =>
    if !validOffset o then .refused (.registerAccess o 32)
    else if o = 0 then commandWrite v s
    else .next (regWrite s o v)
  | .regRead o => if !validOffset o then .refused (.registerAccess o 32) else .next (setReply (.reg (regRead s o)) s)
  | .regOther o w => .refused (.registerAccess o w)
  | .mmWrite x bs => hostMMWrite x bs s
  | .mmRead x n => hostMMRead x n s
  | .attach src => .next (attachSource src s)
  | .reset => .next (resetEngine s)
  | .resetDuringCommand => .refused .resetDuringCommand
  | .sharedSource => .refused .sharedStreamSource

/-- The next access taken from the waiting ones and performed, each after the one before it (20_memory R79). With none
waiting the engine is idle and holds its state (60_exceptions R347). -/
def hostStep (s : State) : Result :=
  match s.pending with
  | [] => .next s
  | a :: rest => hostAccess a (setReply .nothing (setPending rest s))

/-- A command word put at the head of the waiting accesses, as a write to CMD (log 11). SBEGIN (OP 0x05) waits for the
stream source; when the source has no StreamOpen answer left, one for an empty stream is supplied, so that the command
can run. -/
def offerCommand (c : Word32) (s : State) : State :=
  let t := setPending (.regWrite 0 c :: s.pending) s
  if opField c = 0x05 ∧ t.source.opens = [] then
    attachSource { t.source with opens := [{ readable := true, lengthKnown := true, total := 0 }] } t
  else t

end Sys2Proof.Machine
end

