-- ==== Sys2Proof/Machine/Step.lean ====
section
/-! DEFINITION. One step of the machine: one host access, or idling. -/

namespace Sys2Proof.Machine

/-- One step: the host's next access, commands included, executed to completion (00_scope R8). KEHC fetches nothing; its
commands come as CMD writes (10_state R51). -/
def step (s : State) : Host.Outcome State Fault Refusal := hostStep s

/-- The state with one command word waiting as the next access (log 11): KEHC's form of an instruction where the next
step takes it from. -/
def State.withFetchWord (s : State) (nbits w : Nat) : State := offerCommand (BitVec.ofNat 32 (w % 2 ^ nbits)) s

end Sys2Proof.Machine
end

