-- ==== Sys2Proof/Laws/Convert.lean ====
section
/-! SUPPORT. The laws of the conversion unit: lengths, values and groups. -/

namespace Sys2Proof.Machine

@[simp] theorem encLE_length (n v : Nat) : (encLE n v).length = n := by
  induction n generalizing v with
  | zero => rfl
  | succ n ih => simp [encLE, ih]

@[simp] theorem encBE_length (n v : Nat) : (encBE n v).length = n := by simp [encBE]

@[simp] theorem encBytes_length (e : Endian) (n v : Nat) : (encBytes e n v).length = n := by cases e <;> simp [encBytes]

@[simp] theorem zeros_length (n : Nat) : (zeros n).length = n := by simp [zeros]

/-- The value of the encoded bytes is the value, reduced to n bytes. -/
theorem leValue_encLE (n v : Nat) : leValue (encLE n v) = v % 256 ^ n := by
  induction n generalizing v with
  | zero => simp [encLE, leValue, Nat.mod_one]
  | succ n ih =>
    simp only [encLE, leValue, ih, BitVec.toNat_ofNat]
    have h : 256 ^ (n + 1) = 256 * 256 ^ n := by rw [Nat.pow_succ, Nat.mul_comm]
    rw [h, Nat.mod_mul]

theorem bytesValue_encBytes (e : Endian) (n v : Nat) : bytesValue e (encBytes e n v) = v % 256 ^ n := by
  cases e <;> simp [bytesValue, encBytes, beValue, encBE, leValue_encLE]

theorem leValue_lt (bs : List Byte) : leValue bs < 256 ^ bs.length := by
  induction bs with
  | nil => simp [leValue]
  | cons b bs ih =>
    have := b.isLt
    simp only [leValue, List.length_cons, Nat.pow_succ]
    omega

theorem bytesValue_lt (e : Endian) (bs : List Byte) : bytesValue e bs < 256 ^ bs.length := by
  cases e
  · simpa [bytesValue, beValue] using leValue_lt bs.reverse
  · exact leValue_lt bs

theorem encLE_leValue (bs : List Byte) : encLE bs.length (leValue bs) = bs := by
  induction bs with
  | nil => rfl
  | cons b bs ih =>
    have hb := b.isLt
    have h1 : (b.toNat + 256 * leValue bs) / 256 = leValue bs := by omega
    have h2 : BitVec.ofNat 8 (b.toNat + 256 * leValue bs) = b := by
      apply BitVec.eq_of_toNat_eq; simp; omega
    simp [encLE, leValue, h1, h2, ih]

/-- Encoding the value of a byte sequence gives the sequence back. -/
theorem encBytes_bytesValue (e : Endian) (bs : List Byte) : encBytes e bs.length (bytesValue e bs) = bs := by
  cases e
  · have := encLE_leValue bs.reverse
    simp only [List.length_reverse] at this
    simp [encBytes, bytesValue, encBE, beValue, this]
  · exact encLE_leValue bs

theorem bytesValue_be_reverse (bs : List Byte) : bytesValue .be bs = bytesValue .le bs.reverse := rfl

/-- Byte i of the little-endian representation. -/
theorem encLE_getElem (n v i : Nat) (h : i < (encLE n v).length) : (encLE n v)[i] = BitVec.ofNat 8 (v / 256 ^ i) := by
  induction n generalizing v i with
  | zero => simp [encLE] at h
  | succ n ih =>
    cases i with
    | zero => simp [encLE]
    | succ i =>
      simp only [encLE, List.getElem_cons_succ]
      rw [ih, Nat.div_div_eq_div_mul, Nat.mul_comm, ← Nat.pow_succ]

/-- Byte i of the big-endian representation. -/
theorem encBE_getElem (n v i : Nat) (h : i < (encBE n v).length) :
    (encBE n v)[i] = BitVec.ofNat 8 (v / 256 ^ (n - 1 - i)) := by
  simp only [encBE, List.getElem_reverse, encLE_length]
  rw [encLE_getElem]

/-! ### Groups -/

@[simp] theorem chunks_length {α : Type} (size count : Nat) (xs : List α) : (chunks size count xs).length = count := by
  induction count generalizing xs with
  | zero => rfl
  | succ n ih => simp [chunks, ih]

theorem chunks_getElem {α : Type} (size count : Nat) (xs : List α) (i : Nat) (h : i < (chunks size count xs).length) :
    (chunks size count xs)[i] = (xs.drop (i * size)).take size := by
  induction count generalizing xs i with
  | zero => simp [chunks] at h
  | succ n ih =>
    cases i with
    | zero => simp [chunks]
    | succ i =>
      simp only [chunks, List.getElem_cons_succ]
      rw [ih]
      simp [List.drop_drop, Nat.succ_mul, Nat.add_comm]

theorem chunks_flatten {α : Type} (size count : Nat) (xs : List α) (h : xs.length = count * size) :
    (chunks size count xs).flatten = xs := by
  induction count generalizing xs with
  | zero => simp at h; simp [h, chunks]
  | succ n ih =>
    simp only [chunks, List.flatten_cons]
    rw [ih, List.take_append_drop]
    simp [h, Nat.succ_mul]

theorem chunks_mem_length {α : Type} {size count : Nat} {xs g : List α} (h : xs.length = count * size)
    (hg : g ∈ chunks size count xs) : g.length = size := by
  induction count generalizing xs with
  | zero => simp [chunks] at hg
  | succ n ih =>
    simp only [chunks, List.mem_cons] at hg
    rcases hg with rfl | hg
    · simp [h, Nat.succ_mul]
    · exact ih (by simp [h, Nat.succ_mul]) hg

/-- The groups of a sequence put together from equal pieces are the pieces. -/
theorem chunks_flatten_of_length {α : Type} (size : Nat) (gs : List (List α)) (h : ∀ g ∈ gs, g.length = size) :
    chunks size gs.length gs.flatten = gs := by
  induction gs with
  | nil => rfl
  | cons g gs ih =>
    have hg : g.length = size := h g (by simp)
    simp only [List.length_cons, List.flatten_cons, chunks]
    rw [List.take_append_of_le_length (by omega), List.drop_append_of_le_length (by omega),
      List.take_of_length_le (by omega), List.drop_of_length_le (by omega)]
    simp [ih (fun x hx => h x (by simp [hx]))]

theorem length_flatten_of_length {α : Type} (size : Nat) (gs : List (List α)) (h : ∀ g ∈ gs, g.length = size) :
    gs.flatten.length = gs.length * size := by
  induction gs with
  | nil => simp
  | cons g gs ih =>
    have := h g (by simp)
    have := ih (fun x hx => h x (by simp [hx]))
    simp [*, Nat.succ_mul, Nat.add_comm]

theorem length_eq_of_mod {n W : Nat} (h : n % W = 0) : n = n / W * W := by
  have := Nat.div_add_mod n W
  rw [h, Nat.add_zero, Nat.mul_comm] at this
  exact this.symm

@[simp] theorem groups_length {α : Type} (size : Nat) (xs : List α) : (groups size xs).length = xs.length / size := by
  simp [groups]

theorem groups_getElem {α : Type} (size : Nat) (xs : List α) (i : Nat) (h : i < (groups size xs).length) :
    (groups size xs)[i] = (xs.drop (i * size)).take size := by
  simp only [groups] at h ⊢
  exact chunks_getElem size _ xs i h

theorem groups_flatten {α : Type} {size : Nat} {xs : List α} (h : xs.length % size = 0) :
    (groups size xs).flatten = xs := chunks_flatten size _ xs (length_eq_of_mod h)

theorem groups_mem_length {α : Type} {size : Nat} {xs g : List α} (h : xs.length % size = 0) (hg : g ∈ groups size xs) :
    g.length = size := chunks_mem_length (length_eq_of_mod h) hg

theorem groups_of_flatten {α : Type} {size : Nat} (hs : 0 < size) (gs : List (List α)) (h : ∀ g ∈ gs, g.length = size) :
    groups size gs.flatten = gs := by
  have hl := length_flatten_of_length size gs h
  unfold groups
  rw [hl, Nat.mul_div_cancel _ hs]
  exact chunks_flatten_of_length size gs h

/-- The groups of an appended sequence, the first part being whole groups. -/
theorem groups_append {α : Type} {size : Nat} (hs : 0 < size) {xs ys : List α} (hx : xs.length % size = 0)
    (hy : ys.length % size = 0) : groups size (xs ++ ys) = groups size xs ++ groups size ys := by
  have h : xs ++ ys = (groups size xs ++ groups size ys).flatten := by
    rw [List.flatten_append, groups_flatten hx, groups_flatten hy]
  rw [h, groups_of_flatten hs]
  intro g hg
  rcases List.mem_append.1 hg with hg | hg
  · exact groups_mem_length hx hg
  · exact groups_mem_length hy hg

/-! ### Words and bytes -/

theorem bytesToWords_of_multiple {W : Nat} {e : Endian} {bs : List Byte} (h : bs.length % W = 0) :
    bytesToWords W e bs = (groups W bs).map (fun g => BitVec.ofNat (8 * W) (bytesValue e g)) := if_pos h

theorem wordsToBytes_eq_flatten (W : Nat) (e : Endian) (ws : List (BitVec (8 * W))) :
    wordsToBytes W e ws = (ws.map (fun w => encBytes e W w.toNat)).flatten := by
  simp [wordsToBytes, List.flatMap_def]

theorem wordsToBytes_length (W : Nat) (e : Endian) (ws : List (BitVec (8 * W))) :
    (wordsToBytes W e ws).length = ws.length * W := by
  rw [wordsToBytes_eq_flatten, length_flatten_of_length W]
  · simp
  · intro g hg; simp only [List.mem_map] at hg; obtain ⟨w, -, rfl⟩ := hg; simp

theorem bytesToWords_length {W : Nat} {e : Endian} {bs : List Byte} (h : bs.length % W = 0) :
    (bytesToWords W e bs).length = bs.length / W := by
  rw [bytesToWords_of_multiple h]; simp

theorem pow_256 (W : Nat) : 256 ^ W = 2 ^ (8 * W) := by
  rw [show (256 : Nat) = 2 ^ 8 from rfl, ← Nat.pow_mul]

theorem swapBytes_eq_flatten {W : Nat} {bs : List Byte} (h : bs.length % W = 0) :
    swapBytes W bs = ((groups W bs).map List.reverse).flatten := by
  simp [swapBytes, h, List.flatMap_def]

theorem swapBytes_length {W : Nat} {bs : List Byte} (h : bs.length % W = 0) : (swapBytes W bs).length = bs.length := by
  rw [swapBytes_eq_flatten h, length_flatten_of_length W]
  · simp only [List.length_map, groups_length]; exact (length_eq_of_mod h).symm
  · intro g hg
    simp only [List.mem_map] at hg
    obtain ⟨x, hx, rfl⟩ := hg
    simp [groups_mem_length h hx]

/-- The groups of the swapped sequence are the reversed groups. -/
theorem groups_swapBytes {W : Nat} (hW : 0 < W) {bs : List Byte} (h : bs.length % W = 0) :
    groups W (swapBytes W bs) = (groups W bs).map List.reverse := by
  rw [swapBytes_eq_flatten h, groups_of_flatten hW]
  intro g hg
  simp only [List.mem_map] at hg
  obtain ⟨x, hx, rfl⟩ := hg
  simp [groups_mem_length h hx]

end Sys2Proof.Machine
end

