-- ==== Sys2Proof/Laws/State.lean ====
section
/-! SUPPORT. What each named update of the state leaves in each field: one lemma per field per update. -/

namespace Sys2Proof.Machine

@[simp] theorem raiseError_h (e : ErrorCode) (s : State) : (raiseError e s).h = s.h := rfl
@[simp] theorem raiseError_alg (e : ErrorCode) (s : State) : (raiseError e s).alg = s.alg := rfl
@[simp] theorem raiseError_algv (e : ErrorCode) (s : State) : (raiseError e s).algv = s.algv := rfl
@[simp] theorem raiseError_a0 (e : ErrorCode) (s : State) : (raiseError e s).a0 = s.a0 := rfl
@[simp] theorem raiseError_a1 (e : ErrorCode) (s : State) : (raiseError e s).a1 = s.a1 := rfl
@[simp] theorem raiseError_a2 (e : ErrorCode) (s : State) : (raiseError e s).a2 = s.a2 := rfl
@[simp] theorem raiseError_plen (e : ErrorCode) (s : State) : (raiseError e s).plen = s.plen := rfl
@[simp] theorem raiseError_mlen (e : ErrorCode) (s : State) : (raiseError e s).mlen = s.mlen := rfl
@[simp] theorem raiseError_bcnt (e : ErrorCode) (s : State) : (raiseError e s).bcnt = s.bcnt := rfl
@[simp] theorem raiseError_sact (e : ErrorCode) (s : State) : (raiseError e s).sact = false := rfl
@[simp] theorem raiseError_pinj (e : ErrorCode) (s : State) : (raiseError e s).pinj = false := rfl
@[simp] theorem raiseError_sdone (e : ErrorCode) (s : State) : (raiseError e s).sdone = false := rfl
@[simp] theorem raiseError_err (e : ErrorCode) (s : State) : (raiseError e s).err = true := rfl
@[simp] theorem raiseError_cause (e : ErrorCode) (s : State) : (raiseError e s).cause = errorNumber e := rfl
@[simp] theorem raiseError_mm (e : ErrorCode) (s : State) : (raiseError e s).mm = s.mm := rfl
@[simp] theorem raiseError_params (e : ErrorCode) (s : State) : (raiseError e s).params = s.params := rfl
@[simp] theorem raiseError_source (e : ErrorCode) (s : State) : (raiseError e s).source = s.source := rfl
@[simp] theorem raiseError_port (e : ErrorCode) (s : State) : (raiseError e s).port = s.port := rfl
@[simp] theorem raiseError_pending (e : ErrorCode) (s : State) : (raiseError e s).pending = s.pending := rfl
@[simp] theorem raiseError_reply (e : ErrorCode) (s : State) : (raiseError e s).reply = s.reply := rfl

@[simp] theorem clearError_h (s : State) : (clearError s).h = s.h := rfl
@[simp] theorem clearError_alg (s : State) : (clearError s).alg = s.alg := rfl
@[simp] theorem clearError_algv (s : State) : (clearError s).algv = s.algv := rfl
@[simp] theorem clearError_a0 (s : State) : (clearError s).a0 = s.a0 := rfl
@[simp] theorem clearError_a1 (s : State) : (clearError s).a1 = s.a1 := rfl
@[simp] theorem clearError_a2 (s : State) : (clearError s).a2 = s.a2 := rfl
@[simp] theorem clearError_plen (s : State) : (clearError s).plen = s.plen := rfl
@[simp] theorem clearError_mlen (s : State) : (clearError s).mlen = s.mlen := rfl
@[simp] theorem clearError_bcnt (s : State) : (clearError s).bcnt = s.bcnt := rfl
@[simp] theorem clearError_sact (s : State) : (clearError s).sact = s.sact := rfl
@[simp] theorem clearError_pinj (s : State) : (clearError s).pinj = s.pinj := rfl
@[simp] theorem clearError_sdone (s : State) : (clearError s).sdone = s.sdone := rfl
@[simp] theorem clearError_err (s : State) : (clearError s).err = false := rfl
@[simp] theorem clearError_cause (s : State) : (clearError s).cause = 0 := rfl
@[simp] theorem clearError_mm (s : State) : (clearError s).mm = s.mm := rfl
@[simp] theorem clearError_params (s : State) : (clearError s).params = s.params := rfl
@[simp] theorem clearError_source (s : State) : (clearError s).source = s.source := rfl
@[simp] theorem clearError_port (s : State) : (clearError s).port = s.port := rfl
@[simp] theorem clearError_pending (s : State) : (clearError s).pending = s.pending := rfl
@[simp] theorem clearError_reply (s : State) : (clearError s).reply = s.reply := rfl

@[simp] theorem setMM_h (m : Memory) (s : State) : (setMM m s).h = s.h := rfl
@[simp] theorem setMM_alg (m : Memory) (s : State) : (setMM m s).alg = s.alg := rfl
@[simp] theorem setMM_algv (m : Memory) (s : State) : (setMM m s).algv = s.algv := rfl
@[simp] theorem setMM_a0 (m : Memory) (s : State) : (setMM m s).a0 = s.a0 := rfl
@[simp] theorem setMM_a1 (m : Memory) (s : State) : (setMM m s).a1 = s.a1 := rfl
@[simp] theorem setMM_a2 (m : Memory) (s : State) : (setMM m s).a2 = s.a2 := rfl
@[simp] theorem setMM_plen (m : Memory) (s : State) : (setMM m s).plen = s.plen := rfl
@[simp] theorem setMM_mlen (m : Memory) (s : State) : (setMM m s).mlen = s.mlen := rfl
@[simp] theorem setMM_bcnt (m : Memory) (s : State) : (setMM m s).bcnt = s.bcnt := rfl
@[simp] theorem setMM_sact (m : Memory) (s : State) : (setMM m s).sact = s.sact := rfl
@[simp] theorem setMM_pinj (m : Memory) (s : State) : (setMM m s).pinj = s.pinj := rfl
@[simp] theorem setMM_sdone (m : Memory) (s : State) : (setMM m s).sdone = s.sdone := rfl
@[simp] theorem setMM_err (m : Memory) (s : State) : (setMM m s).err = s.err := rfl
@[simp] theorem setMM_cause (m : Memory) (s : State) : (setMM m s).cause = s.cause := rfl
@[simp] theorem setMM_mm (m : Memory) (s : State) : (setMM m s).mm = m := rfl
@[simp] theorem setMM_params (m : Memory) (s : State) : (setMM m s).params = s.params := rfl
@[simp] theorem setMM_source (m : Memory) (s : State) : (setMM m s).source = s.source := rfl
@[simp] theorem setMM_port (m : Memory) (s : State) : (setMM m s).port = s.port := rfl
@[simp] theorem setMM_pending (m : Memory) (s : State) : (setMM m s).pending = s.pending := rfl
@[simp] theorem setMM_reply (m : Memory) (s : State) : (setMM m s).reply = s.reply := rfl

@[simp] theorem setH_h (b : Bank) (s : State) : (setH b s).h = b := rfl
@[simp] theorem setH_alg (b : Bank) (s : State) : (setH b s).alg = s.alg := rfl
@[simp] theorem setH_algv (b : Bank) (s : State) : (setH b s).algv = s.algv := rfl
@[simp] theorem setH_a0 (b : Bank) (s : State) : (setH b s).a0 = s.a0 := rfl
@[simp] theorem setH_a1 (b : Bank) (s : State) : (setH b s).a1 = s.a1 := rfl
@[simp] theorem setH_a2 (b : Bank) (s : State) : (setH b s).a2 = s.a2 := rfl
@[simp] theorem setH_plen (b : Bank) (s : State) : (setH b s).plen = s.plen := rfl
@[simp] theorem setH_mlen (b : Bank) (s : State) : (setH b s).mlen = s.mlen := rfl
@[simp] theorem setH_bcnt (b : Bank) (s : State) : (setH b s).bcnt = s.bcnt := rfl
@[simp] theorem setH_sact (b : Bank) (s : State) : (setH b s).sact = s.sact := rfl
@[simp] theorem setH_pinj (b : Bank) (s : State) : (setH b s).pinj = s.pinj := rfl
@[simp] theorem setH_sdone (b : Bank) (s : State) : (setH b s).sdone = s.sdone := rfl
@[simp] theorem setH_err (b : Bank) (s : State) : (setH b s).err = s.err := rfl
@[simp] theorem setH_cause (b : Bank) (s : State) : (setH b s).cause = s.cause := rfl
@[simp] theorem setH_mm (b : Bank) (s : State) : (setH b s).mm = s.mm := rfl
@[simp] theorem setH_params (b : Bank) (s : State) : (setH b s).params = s.params := rfl
@[simp] theorem setH_source (b : Bank) (s : State) : (setH b s).source = s.source := rfl
@[simp] theorem setH_port (b : Bank) (s : State) : (setH b s).port = s.port := rfl
@[simp] theorem setH_pending (b : Bank) (s : State) : (setH b s).pending = s.pending := rfl
@[simp] theorem setH_reply (b : Bank) (s : State) : (setH b s).reply = s.reply := rfl

@[simp] theorem setPlen_h (n : Nat) (s : State) : (setPlen n s).h = s.h := rfl
@[simp] theorem setPlen_alg (n : Nat) (s : State) : (setPlen n s).alg = s.alg := rfl
@[simp] theorem setPlen_algv (n : Nat) (s : State) : (setPlen n s).algv = s.algv := rfl
@[simp] theorem setPlen_a0 (n : Nat) (s : State) : (setPlen n s).a0 = s.a0 := rfl
@[simp] theorem setPlen_a1 (n : Nat) (s : State) : (setPlen n s).a1 = s.a1 := rfl
@[simp] theorem setPlen_a2 (n : Nat) (s : State) : (setPlen n s).a2 = s.a2 := rfl
@[simp] theorem setPlen_plen (n : Nat) (s : State) : (setPlen n s).plen = BitVec.ofNat 64 n := rfl
@[simp] theorem setPlen_mlen (n : Nat) (s : State) : (setPlen n s).mlen = s.mlen := rfl
@[simp] theorem setPlen_bcnt (n : Nat) (s : State) : (setPlen n s).bcnt = s.bcnt := rfl
@[simp] theorem setPlen_sact (n : Nat) (s : State) : (setPlen n s).sact = s.sact := rfl
@[simp] theorem setPlen_pinj (n : Nat) (s : State) : (setPlen n s).pinj = s.pinj := rfl
@[simp] theorem setPlen_sdone (n : Nat) (s : State) : (setPlen n s).sdone = s.sdone := rfl
@[simp] theorem setPlen_err (n : Nat) (s : State) : (setPlen n s).err = s.err := rfl
@[simp] theorem setPlen_cause (n : Nat) (s : State) : (setPlen n s).cause = s.cause := rfl
@[simp] theorem setPlen_mm (n : Nat) (s : State) : (setPlen n s).mm = s.mm := rfl
@[simp] theorem setPlen_params (n : Nat) (s : State) : (setPlen n s).params = s.params := rfl
@[simp] theorem setPlen_source (n : Nat) (s : State) : (setPlen n s).source = s.source := rfl
@[simp] theorem setPlen_port (n : Nat) (s : State) : (setPlen n s).port = s.port := rfl
@[simp] theorem setPlen_pending (n : Nat) (s : State) : (setPlen n s).pending = s.pending := rfl
@[simp] theorem setPlen_reply (n : Nat) (s : State) : (setPlen n s).reply = s.reply := rfl

@[simp] theorem initEffects_h (a : Alg) (s : State) : (initEffects a s).h = initialState a := rfl
@[simp] theorem initEffects_alg (a : Alg) (s : State) : (initEffects a s).alg = a := rfl
@[simp] theorem initEffects_algv (a : Alg) (s : State) : (initEffects a s).algv = true := rfl
@[simp] theorem initEffects_a0 (a : Alg) (s : State) : (initEffects a s).a0 = s.a0 := rfl
@[simp] theorem initEffects_a1 (a : Alg) (s : State) : (initEffects a s).a1 = s.a1 := rfl
@[simp] theorem initEffects_a2 (a : Alg) (s : State) : (initEffects a s).a2 = s.a2 := rfl
@[simp] theorem initEffects_plen (a : Alg) (s : State) : (initEffects a s).plen = 0 := rfl
@[simp] theorem initEffects_mlen (a : Alg) (s : State) : (initEffects a s).mlen = 0 := rfl
@[simp] theorem initEffects_bcnt (a : Alg) (s : State) : (initEffects a s).bcnt = 0 := rfl
@[simp] theorem initEffects_sact (a : Alg) (s : State) : (initEffects a s).sact = false := rfl
@[simp] theorem initEffects_pinj (a : Alg) (s : State) : (initEffects a s).pinj = false := rfl
@[simp] theorem initEffects_sdone (a : Alg) (s : State) : (initEffects a s).sdone = false := rfl
@[simp] theorem initEffects_err (a : Alg) (s : State) : (initEffects a s).err = false := rfl
@[simp] theorem initEffects_cause (a : Alg) (s : State) : (initEffects a s).cause = 0 := rfl
@[simp] theorem initEffects_mm (a : Alg) (s : State) : (initEffects a s).mm = s.mm := rfl
@[simp] theorem initEffects_params (a : Alg) (s : State) : (initEffects a s).params = s.params := rfl
@[simp] theorem initEffects_source (a : Alg) (s : State) : (initEffects a s).source = s.source := rfl
@[simp] theorem initEffects_port (a : Alg) (s : State) : (initEffects a s).port = s.port := rfl
@[simp] theorem initEffects_pending (a : Alg) (s : State) : (initEffects a s).pending = s.pending := rfl
@[simp] theorem initEffects_reply (a : Alg) (s : State) : (initEffects a s).reply = s.reply := rfl

@[simp] theorem openStream_h (n : Word64) (s : State) : (openStream n s).h = s.h := rfl
@[simp] theorem openStream_alg (n : Word64) (s : State) : (openStream n s).alg = s.alg := rfl
@[simp] theorem openStream_algv (n : Word64) (s : State) : (openStream n s).algv = s.algv := rfl
@[simp] theorem openStream_a0 (n : Word64) (s : State) : (openStream n s).a0 = s.a0 := rfl
@[simp] theorem openStream_a1 (n : Word64) (s : State) : (openStream n s).a1 = s.a1 := rfl
@[simp] theorem openStream_a2 (n : Word64) (s : State) : (openStream n s).a2 = s.a2 := rfl
@[simp] theorem openStream_plen (n : Word64) (s : State) : (openStream n s).plen = s.plen := rfl
@[simp] theorem openStream_mlen (n : Word64) (s : State) : (openStream n s).mlen = n := rfl
@[simp] theorem openStream_bcnt (n : Word64) (s : State) : (openStream n s).bcnt = 0 := rfl
@[simp] theorem openStream_sact (n : Word64) (s : State) : (openStream n s).sact = true := rfl
@[simp] theorem openStream_pinj (n : Word64) (s : State) : (openStream n s).pinj = false := rfl
@[simp] theorem openStream_sdone (n : Word64) (s : State) : (openStream n s).sdone = false := rfl
@[simp] theorem openStream_err (n : Word64) (s : State) : (openStream n s).err = s.err := rfl
@[simp] theorem openStream_cause (n : Word64) (s : State) : (openStream n s).cause = s.cause := rfl
@[simp] theorem openStream_mm (n : Word64) (s : State) : (openStream n s).mm = s.mm := rfl
@[simp] theorem openStream_params (n : Word64) (s : State) : (openStream n s).params = s.params := rfl
@[simp] theorem openStream_source (n : Word64) (s : State) : (openStream n s).source = s.source := rfl
@[simp] theorem openStream_port (n : Word64) (s : State) : (openStream n s).port = s.port := rfl
@[simp] theorem openStream_pending (n : Word64) (s : State) : (openStream n s).pending = s.pending := rfl
@[simp] theorem openStream_reply (n : Word64) (s : State) : (openStream n s).reply = s.reply := rfl

@[simp] theorem advanceStream_h (b : Bank) (n : Nat) (i d : Bool) (s : State) : (advanceStream b n i d s).h = b := rfl
@[simp] theorem advanceStream_alg (b : Bank) (n : Nat) (i d : Bool) (s : State) : (advanceStream b n i d s).alg = s.alg := rfl
@[simp] theorem advanceStream_algv (b : Bank) (n : Nat) (i d : Bool) (s : State) : (advanceStream b n i d s).algv = s.algv := rfl
@[simp] theorem advanceStream_a0 (b : Bank) (n : Nat) (i d : Bool) (s : State) : (advanceStream b n i d s).a0 = s.a0 := rfl
@[simp] theorem advanceStream_a1 (b : Bank) (n : Nat) (i d : Bool) (s : State) : (advanceStream b n i d s).a1 = s.a1 := rfl
@[simp] theorem advanceStream_a2 (b : Bank) (n : Nat) (i d : Bool) (s : State) : (advanceStream b n i d s).a2 = s.a2 := rfl
@[simp] theorem advanceStream_plen (b : Bank) (n : Nat) (i d : Bool) (s : State) : (advanceStream b n i d s).plen = s.plen := rfl
@[simp] theorem advanceStream_mlen (b : Bank) (n : Nat) (i d : Bool) (s : State) : (advanceStream b n i d s).mlen = s.mlen := rfl
@[simp] theorem advanceStream_bcnt (b : Bank) (n : Nat) (i d : Bool) (s : State) : (advanceStream b n i d s).bcnt = s.bcnt + BitVec.ofNat 64 n := rfl
@[simp] theorem advanceStream_sact (b : Bank) (n : Nat) (i d : Bool) (s : State) : (advanceStream b n i d s).sact = (s.sact && !d) := rfl
@[simp] theorem advanceStream_pinj (b : Bank) (n : Nat) (i d : Bool) (s : State) : (advanceStream b n i d s).pinj = (s.pinj || i) := rfl
@[simp] theorem advanceStream_sdone (b : Bank) (n : Nat) (i d : Bool) (s : State) : (advanceStream b n i d s).sdone = (s.sdone || d) := rfl
@[simp] theorem advanceStream_err (b : Bank) (n : Nat) (i d : Bool) (s : State) : (advanceStream b n i d s).err = s.err := rfl
@[simp] theorem advanceStream_cause (b : Bank) (n : Nat) (i d : Bool) (s : State) : (advanceStream b n i d s).cause = s.cause := rfl
@[simp] theorem advanceStream_mm (b : Bank) (n : Nat) (i d : Bool) (s : State) : (advanceStream b n i d s).mm = s.mm := rfl
@[simp] theorem advanceStream_params (b : Bank) (n : Nat) (i d : Bool) (s : State) : (advanceStream b n i d s).params = s.params := rfl
@[simp] theorem advanceStream_source (b : Bank) (n : Nat) (i d : Bool) (s : State) : (advanceStream b n i d s).source = s.source := rfl
@[simp] theorem advanceStream_port (b : Bank) (n : Nat) (i d : Bool) (s : State) : (advanceStream b n i d s).port = s.port := rfl
@[simp] theorem advanceStream_pending (b : Bank) (n : Nat) (i d : Bool) (s : State) : (advanceStream b n i d s).pending = s.pending := rfl
@[simp] theorem advanceStream_reply (b : Bank) (n : Nat) (i d : Bool) (s : State) : (advanceStream b n i d s).reply = s.reply := rfl

@[simp] theorem tookOpen_h (x : OpenAnswer) (r : List OpenAnswer) (s : State) : (tookOpen x r s).h = s.h := rfl
@[simp] theorem tookOpen_alg (x : OpenAnswer) (r : List OpenAnswer) (s : State) : (tookOpen x r s).alg = s.alg := rfl
@[simp] theorem tookOpen_algv (x : OpenAnswer) (r : List OpenAnswer) (s : State) : (tookOpen x r s).algv = s.algv := rfl
@[simp] theorem tookOpen_a0 (x : OpenAnswer) (r : List OpenAnswer) (s : State) : (tookOpen x r s).a0 = s.a0 := rfl
@[simp] theorem tookOpen_a1 (x : OpenAnswer) (r : List OpenAnswer) (s : State) : (tookOpen x r s).a1 = s.a1 := rfl
@[simp] theorem tookOpen_a2 (x : OpenAnswer) (r : List OpenAnswer) (s : State) : (tookOpen x r s).a2 = s.a2 := rfl
@[simp] theorem tookOpen_plen (x : OpenAnswer) (r : List OpenAnswer) (s : State) : (tookOpen x r s).plen = s.plen := rfl
@[simp] theorem tookOpen_mlen (x : OpenAnswer) (r : List OpenAnswer) (s : State) : (tookOpen x r s).mlen = s.mlen := rfl
@[simp] theorem tookOpen_bcnt (x : OpenAnswer) (r : List OpenAnswer) (s : State) : (tookOpen x r s).bcnt = s.bcnt := rfl
@[simp] theorem tookOpen_sact (x : OpenAnswer) (r : List OpenAnswer) (s : State) : (tookOpen x r s).sact = s.sact := rfl
@[simp] theorem tookOpen_pinj (x : OpenAnswer) (r : List OpenAnswer) (s : State) : (tookOpen x r s).pinj = s.pinj := rfl
@[simp] theorem tookOpen_sdone (x : OpenAnswer) (r : List OpenAnswer) (s : State) : (tookOpen x r s).sdone = s.sdone := rfl
@[simp] theorem tookOpen_err (x : OpenAnswer) (r : List OpenAnswer) (s : State) : (tookOpen x r s).err = s.err := rfl
@[simp] theorem tookOpen_cause (x : OpenAnswer) (r : List OpenAnswer) (s : State) : (tookOpen x r s).cause = s.cause := rfl
@[simp] theorem tookOpen_mm (x : OpenAnswer) (r : List OpenAnswer) (s : State) : (tookOpen x r s).mm = s.mm := rfl
@[simp] theorem tookOpen_params (x : OpenAnswer) (r : List OpenAnswer) (s : State) : (tookOpen x r s).params = s.params := rfl
@[simp] theorem tookOpen_source (x : OpenAnswer) (r : List OpenAnswer) (s : State) : (tookOpen x r s).source = { s.source with opens := r } := rfl
@[simp] theorem tookOpen_port (x : OpenAnswer) (r : List OpenAnswer) (s : State) : (tookOpen x r s).port = s.port ++ [.opened x] := rfl
@[simp] theorem tookOpen_pending (x : OpenAnswer) (r : List OpenAnswer) (s : State) : (tookOpen x r s).pending = s.pending := rfl
@[simp] theorem tookOpen_reply (x : OpenAnswer) (r : List OpenAnswer) (s : State) : (tookOpen x r s).reply = s.reply := rfl

@[simp] theorem tookRead_h (k : Nat) (x : ReadAnswer) (r : List ReadAnswer) (s : State) : (tookRead k x r s).h = s.h := rfl
@[simp] theorem tookRead_alg (k : Nat) (x : ReadAnswer) (r : List ReadAnswer) (s : State) : (tookRead k x r s).alg = s.alg := rfl
@[simp] theorem tookRead_algv (k : Nat) (x : ReadAnswer) (r : List ReadAnswer) (s : State) : (tookRead k x r s).algv = s.algv := rfl
@[simp] theorem tookRead_a0 (k : Nat) (x : ReadAnswer) (r : List ReadAnswer) (s : State) : (tookRead k x r s).a0 = s.a0 := rfl
@[simp] theorem tookRead_a1 (k : Nat) (x : ReadAnswer) (r : List ReadAnswer) (s : State) : (tookRead k x r s).a1 = s.a1 := rfl
@[simp] theorem tookRead_a2 (k : Nat) (x : ReadAnswer) (r : List ReadAnswer) (s : State) : (tookRead k x r s).a2 = s.a2 := rfl
@[simp] theorem tookRead_plen (k : Nat) (x : ReadAnswer) (r : List ReadAnswer) (s : State) : (tookRead k x r s).plen = s.plen := rfl
@[simp] theorem tookRead_mlen (k : Nat) (x : ReadAnswer) (r : List ReadAnswer) (s : State) : (tookRead k x r s).mlen = s.mlen := rfl
@[simp] theorem tookRead_bcnt (k : Nat) (x : ReadAnswer) (r : List ReadAnswer) (s : State) : (tookRead k x r s).bcnt = s.bcnt := rfl
@[simp] theorem tookRead_sact (k : Nat) (x : ReadAnswer) (r : List ReadAnswer) (s : State) : (tookRead k x r s).sact = s.sact := rfl
@[simp] theorem tookRead_pinj (k : Nat) (x : ReadAnswer) (r : List ReadAnswer) (s : State) : (tookRead k x r s).pinj = s.pinj := rfl
@[simp] theorem tookRead_sdone (k : Nat) (x : ReadAnswer) (r : List ReadAnswer) (s : State) : (tookRead k x r s).sdone = s.sdone := rfl
@[simp] theorem tookRead_err (k : Nat) (x : ReadAnswer) (r : List ReadAnswer) (s : State) : (tookRead k x r s).err = s.err := rfl
@[simp] theorem tookRead_cause (k : Nat) (x : ReadAnswer) (r : List ReadAnswer) (s : State) : (tookRead k x r s).cause = s.cause := rfl
@[simp] theorem tookRead_mm (k : Nat) (x : ReadAnswer) (r : List ReadAnswer) (s : State) : (tookRead k x r s).mm = s.mm := rfl
@[simp] theorem tookRead_params (k : Nat) (x : ReadAnswer) (r : List ReadAnswer) (s : State) : (tookRead k x r s).params = s.params := rfl
@[simp] theorem tookRead_source (k : Nat) (x : ReadAnswer) (r : List ReadAnswer) (s : State) : (tookRead k x r s).source = { s.source with reads := r } := rfl
@[simp] theorem tookRead_port (k : Nat) (x : ReadAnswer) (r : List ReadAnswer) (s : State) : (tookRead k x r s).port = s.port ++ [.read k x] := rfl
@[simp] theorem tookRead_pending (k : Nat) (x : ReadAnswer) (r : List ReadAnswer) (s : State) : (tookRead k x r s).pending = s.pending := rfl
@[simp] theorem tookRead_reply (k : Nat) (x : ReadAnswer) (r : List ReadAnswer) (s : State) : (tookRead k x r s).reply = s.reply := rfl

@[simp] theorem setReply_h (r : HostReply) (s : State) : (setReply r s).h = s.h := rfl
@[simp] theorem setReply_alg (r : HostReply) (s : State) : (setReply r s).alg = s.alg := rfl
@[simp] theorem setReply_algv (r : HostReply) (s : State) : (setReply r s).algv = s.algv := rfl
@[simp] theorem setReply_a0 (r : HostReply) (s : State) : (setReply r s).a0 = s.a0 := rfl
@[simp] theorem setReply_a1 (r : HostReply) (s : State) : (setReply r s).a1 = s.a1 := rfl
@[simp] theorem setReply_a2 (r : HostReply) (s : State) : (setReply r s).a2 = s.a2 := rfl
@[simp] theorem setReply_plen (r : HostReply) (s : State) : (setReply r s).plen = s.plen := rfl
@[simp] theorem setReply_mlen (r : HostReply) (s : State) : (setReply r s).mlen = s.mlen := rfl
@[simp] theorem setReply_bcnt (r : HostReply) (s : State) : (setReply r s).bcnt = s.bcnt := rfl
@[simp] theorem setReply_sact (r : HostReply) (s : State) : (setReply r s).sact = s.sact := rfl
@[simp] theorem setReply_pinj (r : HostReply) (s : State) : (setReply r s).pinj = s.pinj := rfl
@[simp] theorem setReply_sdone (r : HostReply) (s : State) : (setReply r s).sdone = s.sdone := rfl
@[simp] theorem setReply_err (r : HostReply) (s : State) : (setReply r s).err = s.err := rfl
@[simp] theorem setReply_cause (r : HostReply) (s : State) : (setReply r s).cause = s.cause := rfl
@[simp] theorem setReply_mm (r : HostReply) (s : State) : (setReply r s).mm = s.mm := rfl
@[simp] theorem setReply_params (r : HostReply) (s : State) : (setReply r s).params = s.params := rfl
@[simp] theorem setReply_source (r : HostReply) (s : State) : (setReply r s).source = s.source := rfl
@[simp] theorem setReply_port (r : HostReply) (s : State) : (setReply r s).port = s.port := rfl
@[simp] theorem setReply_pending (r : HostReply) (s : State) : (setReply r s).pending = s.pending := rfl
@[simp] theorem setReply_reply (r : HostReply) (s : State) : (setReply r s).reply = r := rfl

@[simp] theorem setPending_h (l : List HostAccess) (s : State) : (setPending l s).h = s.h := rfl
@[simp] theorem setPending_alg (l : List HostAccess) (s : State) : (setPending l s).alg = s.alg := rfl
@[simp] theorem setPending_algv (l : List HostAccess) (s : State) : (setPending l s).algv = s.algv := rfl
@[simp] theorem setPending_a0 (l : List HostAccess) (s : State) : (setPending l s).a0 = s.a0 := rfl
@[simp] theorem setPending_a1 (l : List HostAccess) (s : State) : (setPending l s).a1 = s.a1 := rfl
@[simp] theorem setPending_a2 (l : List HostAccess) (s : State) : (setPending l s).a2 = s.a2 := rfl
@[simp] theorem setPending_plen (l : List HostAccess) (s : State) : (setPending l s).plen = s.plen := rfl
@[simp] theorem setPending_mlen (l : List HostAccess) (s : State) : (setPending l s).mlen = s.mlen := rfl
@[simp] theorem setPending_bcnt (l : List HostAccess) (s : State) : (setPending l s).bcnt = s.bcnt := rfl
@[simp] theorem setPending_sact (l : List HostAccess) (s : State) : (setPending l s).sact = s.sact := rfl
@[simp] theorem setPending_pinj (l : List HostAccess) (s : State) : (setPending l s).pinj = s.pinj := rfl
@[simp] theorem setPending_sdone (l : List HostAccess) (s : State) : (setPending l s).sdone = s.sdone := rfl
@[simp] theorem setPending_err (l : List HostAccess) (s : State) : (setPending l s).err = s.err := rfl
@[simp] theorem setPending_cause (l : List HostAccess) (s : State) : (setPending l s).cause = s.cause := rfl
@[simp] theorem setPending_mm (l : List HostAccess) (s : State) : (setPending l s).mm = s.mm := rfl
@[simp] theorem setPending_params (l : List HostAccess) (s : State) : (setPending l s).params = s.params := rfl
@[simp] theorem setPending_source (l : List HostAccess) (s : State) : (setPending l s).source = s.source := rfl
@[simp] theorem setPending_port (l : List HostAccess) (s : State) : (setPending l s).port = s.port := rfl
@[simp] theorem setPending_pending (l : List HostAccess) (s : State) : (setPending l s).pending = l := rfl
@[simp] theorem setPending_reply (l : List HostAccess) (s : State) : (setPending l s).reply = s.reply := rfl

@[simp] theorem attachSource_h (x : StreamSource) (s : State) : (attachSource x s).h = s.h := rfl
@[simp] theorem attachSource_alg (x : StreamSource) (s : State) : (attachSource x s).alg = s.alg := rfl
@[simp] theorem attachSource_algv (x : StreamSource) (s : State) : (attachSource x s).algv = s.algv := rfl
@[simp] theorem attachSource_a0 (x : StreamSource) (s : State) : (attachSource x s).a0 = s.a0 := rfl
@[simp] theorem attachSource_a1 (x : StreamSource) (s : State) : (attachSource x s).a1 = s.a1 := rfl
@[simp] theorem attachSource_a2 (x : StreamSource) (s : State) : (attachSource x s).a2 = s.a2 := rfl
@[simp] theorem attachSource_plen (x : StreamSource) (s : State) : (attachSource x s).plen = s.plen := rfl
@[simp] theorem attachSource_mlen (x : StreamSource) (s : State) : (attachSource x s).mlen = s.mlen := rfl
@[simp] theorem attachSource_bcnt (x : StreamSource) (s : State) : (attachSource x s).bcnt = s.bcnt := rfl
@[simp] theorem attachSource_sact (x : StreamSource) (s : State) : (attachSource x s).sact = s.sact := rfl
@[simp] theorem attachSource_pinj (x : StreamSource) (s : State) : (attachSource x s).pinj = s.pinj := rfl
@[simp] theorem attachSource_sdone (x : StreamSource) (s : State) : (attachSource x s).sdone = s.sdone := rfl
@[simp] theorem attachSource_err (x : StreamSource) (s : State) : (attachSource x s).err = s.err := rfl
@[simp] theorem attachSource_cause (x : StreamSource) (s : State) : (attachSource x s).cause = s.cause := rfl
@[simp] theorem attachSource_mm (x : StreamSource) (s : State) : (attachSource x s).mm = s.mm := rfl
@[simp] theorem attachSource_params (x : StreamSource) (s : State) : (attachSource x s).params = s.params := rfl
@[simp] theorem attachSource_source (x : StreamSource) (s : State) : (attachSource x s).source = x := rfl
@[simp] theorem attachSource_port (x : StreamSource) (s : State) : (attachSource x s).port = s.port := rfl
@[simp] theorem attachSource_pending (x : StreamSource) (s : State) : (attachSource x s).pending = s.pending := rfl
@[simp] theorem attachSource_reply (x : StreamSource) (s : State) : (attachSource x s).reply = s.reply := rfl

@[simp] theorem resetEngine_h (s : State) : (resetEngine s).h = #v[0, 0, 0, 0, 0, 0, 0, 0] := rfl
@[simp] theorem resetEngine_alg (s : State) : (resetEngine s).alg = .sha224 := rfl
@[simp] theorem resetEngine_algv (s : State) : (resetEngine s).algv = false := rfl
@[simp] theorem resetEngine_a0 (s : State) : (resetEngine s).a0 = 0 := rfl
@[simp] theorem resetEngine_a1 (s : State) : (resetEngine s).a1 = 0 := rfl
@[simp] theorem resetEngine_a2 (s : State) : (resetEngine s).a2 = 0 := rfl
@[simp] theorem resetEngine_plen (s : State) : (resetEngine s).plen = 0 := rfl
@[simp] theorem resetEngine_mlen (s : State) : (resetEngine s).mlen = 0 := rfl
@[simp] theorem resetEngine_bcnt (s : State) : (resetEngine s).bcnt = 0 := rfl
@[simp] theorem resetEngine_sact (s : State) : (resetEngine s).sact = false := rfl
@[simp] theorem resetEngine_pinj (s : State) : (resetEngine s).pinj = false := rfl
@[simp] theorem resetEngine_sdone (s : State) : (resetEngine s).sdone = false := rfl
@[simp] theorem resetEngine_err (s : State) : (resetEngine s).err = false := rfl
@[simp] theorem resetEngine_cause (s : State) : (resetEngine s).cause = 0 := rfl
@[simp] theorem resetEngine_mm (s : State) : (resetEngine s).mm = [] := rfl
@[simp] theorem resetEngine_params (s : State) : (resetEngine s).params = s.params := rfl
@[simp] theorem resetEngine_source (s : State) : (resetEngine s).source = s.source := rfl
@[simp] theorem resetEngine_port (s : State) : (resetEngine s).port = s.port := rfl
@[simp] theorem resetEngine_pending (s : State) : (resetEngine s).pending = s.pending := rfl
@[simp] theorem resetEngine_reply (s : State) : (resetEngine s).reply = s.reply := rfl

@[simp] theorem setA0_h (v : Word32) (s : State) : (setA0 v s).h = s.h := rfl
@[simp] theorem setA0_alg (v : Word32) (s : State) : (setA0 v s).alg = s.alg := rfl
@[simp] theorem setA0_algv (v : Word32) (s : State) : (setA0 v s).algv = s.algv := rfl
@[simp] theorem setA0_a0 (v : Word32) (s : State) : (setA0 v s).a0 = v := rfl
@[simp] theorem setA0_a1 (v : Word32) (s : State) : (setA0 v s).a1 = s.a1 := rfl
@[simp] theorem setA0_a2 (v : Word32) (s : State) : (setA0 v s).a2 = s.a2 := rfl
@[simp] theorem setA0_plen (v : Word32) (s : State) : (setA0 v s).plen = s.plen := rfl
@[simp] theorem setA0_mlen (v : Word32) (s : State) : (setA0 v s).mlen = s.mlen := rfl
@[simp] theorem setA0_bcnt (v : Word32) (s : State) : (setA0 v s).bcnt = s.bcnt := rfl
@[simp] theorem setA0_sact (v : Word32) (s : State) : (setA0 v s).sact = s.sact := rfl
@[simp] theorem setA0_pinj (v : Word32) (s : State) : (setA0 v s).pinj = s.pinj := rfl
@[simp] theorem setA0_sdone (v : Word32) (s : State) : (setA0 v s).sdone = s.sdone := rfl
@[simp] theorem setA0_err (v : Word32) (s : State) : (setA0 v s).err = s.err := rfl
@[simp] theorem setA0_cause (v : Word32) (s : State) : (setA0 v s).cause = s.cause := rfl
@[simp] theorem setA0_mm (v : Word32) (s : State) : (setA0 v s).mm = s.mm := rfl
@[simp] theorem setA0_params (v : Word32) (s : State) : (setA0 v s).params = s.params := rfl
@[simp] theorem setA0_source (v : Word32) (s : State) : (setA0 v s).source = s.source := rfl
@[simp] theorem setA0_port (v : Word32) (s : State) : (setA0 v s).port = s.port := rfl
@[simp] theorem setA0_pending (v : Word32) (s : State) : (setA0 v s).pending = s.pending := rfl
@[simp] theorem setA0_reply (v : Word32) (s : State) : (setA0 v s).reply = s.reply := rfl

@[simp] theorem setA1_h (v : Word32) (s : State) : (setA1 v s).h = s.h := rfl
@[simp] theorem setA1_alg (v : Word32) (s : State) : (setA1 v s).alg = s.alg := rfl
@[simp] theorem setA1_algv (v : Word32) (s : State) : (setA1 v s).algv = s.algv := rfl
@[simp] theorem setA1_a0 (v : Word32) (s : State) : (setA1 v s).a0 = s.a0 := rfl
@[simp] theorem setA1_a1 (v : Word32) (s : State) : (setA1 v s).a1 = v := rfl
@[simp] theorem setA1_a2 (v : Word32) (s : State) : (setA1 v s).a2 = s.a2 := rfl
@[simp] theorem setA1_plen (v : Word32) (s : State) : (setA1 v s).plen = s.plen := rfl
@[simp] theorem setA1_mlen (v : Word32) (s : State) : (setA1 v s).mlen = s.mlen := rfl
@[simp] theorem setA1_bcnt (v : Word32) (s : State) : (setA1 v s).bcnt = s.bcnt := rfl
@[simp] theorem setA1_sact (v : Word32) (s : State) : (setA1 v s).sact = s.sact := rfl
@[simp] theorem setA1_pinj (v : Word32) (s : State) : (setA1 v s).pinj = s.pinj := rfl
@[simp] theorem setA1_sdone (v : Word32) (s : State) : (setA1 v s).sdone = s.sdone := rfl
@[simp] theorem setA1_err (v : Word32) (s : State) : (setA1 v s).err = s.err := rfl
@[simp] theorem setA1_cause (v : Word32) (s : State) : (setA1 v s).cause = s.cause := rfl
@[simp] theorem setA1_mm (v : Word32) (s : State) : (setA1 v s).mm = s.mm := rfl
@[simp] theorem setA1_params (v : Word32) (s : State) : (setA1 v s).params = s.params := rfl
@[simp] theorem setA1_source (v : Word32) (s : State) : (setA1 v s).source = s.source := rfl
@[simp] theorem setA1_port (v : Word32) (s : State) : (setA1 v s).port = s.port := rfl
@[simp] theorem setA1_pending (v : Word32) (s : State) : (setA1 v s).pending = s.pending := rfl
@[simp] theorem setA1_reply (v : Word32) (s : State) : (setA1 v s).reply = s.reply := rfl

@[simp] theorem setA2_h (v : Word32) (s : State) : (setA2 v s).h = s.h := rfl
@[simp] theorem setA2_alg (v : Word32) (s : State) : (setA2 v s).alg = s.alg := rfl
@[simp] theorem setA2_algv (v : Word32) (s : State) : (setA2 v s).algv = s.algv := rfl
@[simp] theorem setA2_a0 (v : Word32) (s : State) : (setA2 v s).a0 = s.a0 := rfl
@[simp] theorem setA2_a1 (v : Word32) (s : State) : (setA2 v s).a1 = s.a1 := rfl
@[simp] theorem setA2_a2 (v : Word32) (s : State) : (setA2 v s).a2 = v := rfl
@[simp] theorem setA2_plen (v : Word32) (s : State) : (setA2 v s).plen = s.plen := rfl
@[simp] theorem setA2_mlen (v : Word32) (s : State) : (setA2 v s).mlen = s.mlen := rfl
@[simp] theorem setA2_bcnt (v : Word32) (s : State) : (setA2 v s).bcnt = s.bcnt := rfl
@[simp] theorem setA2_sact (v : Word32) (s : State) : (setA2 v s).sact = s.sact := rfl
@[simp] theorem setA2_pinj (v : Word32) (s : State) : (setA2 v s).pinj = s.pinj := rfl
@[simp] theorem setA2_sdone (v : Word32) (s : State) : (setA2 v s).sdone = s.sdone := rfl
@[simp] theorem setA2_err (v : Word32) (s : State) : (setA2 v s).err = s.err := rfl
@[simp] theorem setA2_cause (v : Word32) (s : State) : (setA2 v s).cause = s.cause := rfl
@[simp] theorem setA2_mm (v : Word32) (s : State) : (setA2 v s).mm = s.mm := rfl
@[simp] theorem setA2_params (v : Word32) (s : State) : (setA2 v s).params = s.params := rfl
@[simp] theorem setA2_source (v : Word32) (s : State) : (setA2 v s).source = s.source := rfl
@[simp] theorem setA2_port (v : Word32) (s : State) : (setA2 v s).port = s.port := rfl
@[simp] theorem setA2_pending (v : Word32) (s : State) : (setA2 v s).pending = s.pending := rfl
@[simp] theorem setA2_reply (v : Word32) (s : State) : (setA2 v s).reply = s.reply := rfl

@[simp] theorem setHReg_h (i : Nat) (v : Word64) (s : State) : (setHReg i v s).h = s.h.setIfInBounds i v := rfl
@[simp] theorem setHReg_alg (i : Nat) (v : Word64) (s : State) : (setHReg i v s).alg = s.alg := rfl
@[simp] theorem setHReg_algv (i : Nat) (v : Word64) (s : State) : (setHReg i v s).algv = s.algv := rfl
@[simp] theorem setHReg_a0 (i : Nat) (v : Word64) (s : State) : (setHReg i v s).a0 = s.a0 := rfl
@[simp] theorem setHReg_a1 (i : Nat) (v : Word64) (s : State) : (setHReg i v s).a1 = s.a1 := rfl
@[simp] theorem setHReg_a2 (i : Nat) (v : Word64) (s : State) : (setHReg i v s).a2 = s.a2 := rfl
@[simp] theorem setHReg_plen (i : Nat) (v : Word64) (s : State) : (setHReg i v s).plen = s.plen := rfl
@[simp] theorem setHReg_mlen (i : Nat) (v : Word64) (s : State) : (setHReg i v s).mlen = s.mlen := rfl
@[simp] theorem setHReg_bcnt (i : Nat) (v : Word64) (s : State) : (setHReg i v s).bcnt = s.bcnt := rfl
@[simp] theorem setHReg_sact (i : Nat) (v : Word64) (s : State) : (setHReg i v s).sact = s.sact := rfl
@[simp] theorem setHReg_pinj (i : Nat) (v : Word64) (s : State) : (setHReg i v s).pinj = s.pinj := rfl
@[simp] theorem setHReg_sdone (i : Nat) (v : Word64) (s : State) : (setHReg i v s).sdone = s.sdone := rfl
@[simp] theorem setHReg_err (i : Nat) (v : Word64) (s : State) : (setHReg i v s).err = s.err := rfl
@[simp] theorem setHReg_cause (i : Nat) (v : Word64) (s : State) : (setHReg i v s).cause = s.cause := rfl
@[simp] theorem setHReg_mm (i : Nat) (v : Word64) (s : State) : (setHReg i v s).mm = s.mm := rfl
@[simp] theorem setHReg_params (i : Nat) (v : Word64) (s : State) : (setHReg i v s).params = s.params := rfl
@[simp] theorem setHReg_source (i : Nat) (v : Word64) (s : State) : (setHReg i v s).source = s.source := rfl
@[simp] theorem setHReg_port (i : Nat) (v : Word64) (s : State) : (setHReg i v s).port = s.port := rfl
@[simp] theorem setHReg_pending (i : Nat) (v : Word64) (s : State) : (setHReg i v s).pending = s.pending := rfl
@[simp] theorem setHReg_reply (i : Nat) (v : Word64) (s : State) : (setHReg i v s).reply = s.reply := rfl

end Sys2Proof.Machine
end

