-- ==== Sys2Proof/Laws/Memory.lean ====
section
/-! SUPPORT. The laws of message memory: what a read gives after a write, and that every operation keeps the canonical
form. -/

namespace Sys2Proof.Machine

theorem memByte_memPut (m : Memory) (a : Nat) (b : Byte) (x : Nat) :
    memByte (memPut m a b) x = if x = a then some b else memByte m x := by
  induction m with
  | nil => simp [memPut, memByte]
  | cons c m ih =>
    obtain ⟨y, v⟩ := c
    simp only [memPut]
    split
    · simp [memByte]
    · split
      · subst_vars; simp only [memByte]; split <;> simp_all
      · simp only [memByte, ih]; split <;> split <;> simp_all

theorem mem_memPut {m : Memory} {a : Nat} {b : Byte} {c : Host.Cell} (h : c ∈ memPut m a b) : c = (a, b) ∨ c ∈ m := by
  induction m with
  | nil => simpa [memPut] using h
  | cons d m ih =>
    obtain ⟨y, v⟩ := d
    simp only [memPut] at h
    split at h
    · simp_all
    · split at h
      · simp at h; rcases h with h | h <;> simp [h]
      · simp at h
        rcases h with h | h
        · simp [h]
        · rcases ih h with h | h <;> simp [h]

/-- One byte written keeps the canonical form. -/
theorem memPut_wf {m : Memory} (a : Nat) (b : Byte) (h : Memory.wf m) : Memory.wf (memPut m a b) := by
  induction m with
  | nil => simp [memPut, Memory.wf]
  | cons d m ih =>
    obtain ⟨y, v⟩ := d
    simp only [Memory.wf, List.pairwise_cons] at h
    simp only [memPut]
    split
    · simp only [Memory.wf, List.pairwise_cons, List.mem_cons]
      refine ⟨?_, h.1, h.2⟩
      rintro c (rfl | hc)
      · assumption
      · have := h.1 c hc; simp_all; omega
    · split
      · subst_vars; simp only [Memory.wf, List.pairwise_cons]; exact ⟨h.1, h.2⟩
      · simp only [Memory.wf, List.pairwise_cons]
        refine ⟨fun c hc => ?_, ih h.2⟩
        rcases mem_memPut hc with rfl | hc
        · simp; omega
        · exact h.1 c hc

/-- A range written keeps the canonical form. -/
theorem memWrite_wf {m : Memory} (a : Nat) (bs : List Byte) (h : Memory.wf m) : Memory.wf (memWrite m a bs) := by
  induction bs generalizing m a with
  | nil => exact h
  | cons b bs ih => exact ih _ (memPut_wf _ _ h)

/-- A range written inside MM lists no address outside it. -/
theorem memWrite_below {m : Memory} {a N : Nat} {bs : List Byte} (h : ∀ c ∈ m, c.1 < N) (ha : a + bs.length ≤ N) :
    ∀ c ∈ memWrite m a bs, c.1 < N := by
  induction bs generalizing m a with
  | nil => exact h
  | cons b bs ih =>
    simp only [List.length_cons] at ha
    refine ih (fun c hc => ?_) (by omega)
    rcases mem_memPut hc with rfl | hc
    · simp; omega
    · exact h c hc

/-- A byte read after a range is written: the byte written there, or what stood there before. -/
theorem memByte_memWrite (m : Memory) (a : Nat) (bs : List Byte) (x : Nat) :
    memByte (memWrite m a bs) x = if a ≤ x ∧ x < a + bs.length then bs[x - a]? else memByte m x := by
  induction bs generalizing m a with
  | nil => simp [memWrite]
  | cons b bs ih =>
    simp only [memWrite, ih, memByte_memPut, List.length_cons]
    by_cases h1 : x = a
    · subst h1; simp
    · rw [if_neg h1]
      by_cases h2 : a + 1 ≤ x ∧ x < a + 1 + bs.length
      · rw [if_pos h2, if_pos (by omega)]
        have : x - a = (x - (a + 1)) + 1 := by omega
        simp [this]
      · rw [if_neg h2, if_neg (by omega)]

theorem memByte_memWrite_outside {m : Memory} {a x : Nat} {bs : List Byte} (h : x < a ∨ a + bs.length ≤ x) :
    memByte (memWrite m a bs) x = memByte m x := by
  rw [memByte_memWrite, if_neg (by omega)]

theorem memByte_memWrite_inside (m : Memory) (a : Nat) (bs : List Byte) (i : Nat) (h : i < bs.length) :
    memByte (memWrite m a bs) (a + i) = some bs[i] := by
  rw [memByte_memWrite, if_pos (by omega)]
  simp [h]

/-- A range reads as the given bytes exactly when each of its bytes does. -/
theorem memRead_ok_iff (m : Memory) (a n : Nat) (bs : List Byte) :
    memRead m a n = .ok bs ↔ bs.length = n ∧ ∀ i (h : i < bs.length), memByte m (a + i) = some bs[i] := by
  induction n generalizing a bs with
  | zero =>
    simp only [memRead]
    constructor
    · intro h; cases h; simp
    · rintro ⟨h, -⟩; simp at h; subst h; rfl
  | succ n ih =>
    simp only [memRead]
    cases hb : memByte m a with
    | none =>
      simp only [reduceCtorEq, false_iff, not_and]
      intro hl hi
      have := hi 0 (by omega)
      simp [hb] at this
    | some b =>
      cases hr : memRead m (a + 1) n with
      | error x =>
        simp only [reduceCtorEq, false_iff, not_and]
        intro hl hi
        have h2 : memRead m (a + 1) n = .ok bs.tail := by
          rw [ih]
          refine ⟨by simp [hl], fun i h => ?_⟩
          have := hi (i + 1) (by simp at h; omega)
          simpa [Nat.add_assoc, Nat.add_comm 1] using this
        simp [hr] at h2
      | ok cs =>
        have h2 := (ih (a + 1) cs).1 hr
        simp only [Except.ok.injEq]
        constructor
        · rintro rfl
          refine ⟨by simp [h2.1], fun i h => ?_⟩
          cases i with
          | zero => simpa using hb
          | succ i =>
            have := h2.2 i (by simpa using h)
            simpa [Nat.add_assoc, Nat.add_comm 1] using this
        · rintro ⟨hl, hi⟩
          cases bs with
          | nil => simp at hl
          | cons d ds =>
            have h0 := hi 0 (by simp)
            simp [hb] at h0
            subst h0
            have : memRead m (a + 1) n = .ok ds := by
              rw [ih]
              refine ⟨by simpa using hl, fun i h => ?_⟩
              have := hi (i + 1) (by simpa using h)
              simpa [Nat.add_assoc, Nat.add_comm 1] using this
            rw [hr] at this
            cases this
            rfl

theorem memRead_length {m : Memory} {a n : Nat} {bs : List Byte} (h : memRead m a n = .ok bs) : bs.length = n :=
  ((memRead_ok_iff m a n bs).1 h).1

theorem memRead_byte {m : Memory} {a n : Nat} {bs : List Byte} (h : memRead m a n = .ok bs) (i : Nat)
    (hi : i < bs.length) : memByte m (a + i) = some bs[i] :=
  ((memRead_ok_iff m a n bs).1 h).2 i hi

/-- A range every byte of which has been written reads as some bytes. -/
theorem memRead_exists {m : Memory} {a n : Nat} (h : ∀ i < n, (memByte m (a + i)).isSome) :
    ∃ bs, memRead m a n = .ok bs := by
  induction n generalizing a with
  | zero => exact ⟨[], rfl⟩
  | succ n ih =>
    obtain ⟨b, hb⟩ := Option.isSome_iff_exists.1 (h 0 (by omega))
    obtain ⟨bs, hbs⟩ := ih (a := a + 1) (fun i hi => by have := h (i + 1) (by omega); rwa [Nat.add_assoc, Nat.add_comm 1])
    exact ⟨b :: bs, by simp only [Nat.add_zero] at hb; simp [memRead, hb, hbs]⟩

/-- A failed read names an unwritten byte of the range, and every byte below it in the range has been written. -/
theorem memRead_error {m : Memory} {a n x : Nat} (h : memRead m a n = .error x) :
    a ≤ x ∧ x < a + n ∧ memByte m x = none ∧ ∀ y, a ≤ y → y < x → (memByte m y).isSome := by
  induction n generalizing a with
  | zero => simp [memRead] at h
  | succ n ih =>
    simp only [memRead] at h
    split at h
    · cases h
      exact ⟨by omega, by omega, by assumption, by intros; omega⟩
    · rename_i b hb
      split at h
      · rename_i y hr
        cases h
        obtain ⟨h1, h2, h3, h4⟩ := ih hr
        refine ⟨by omega, by omega, h3, fun y hy hyx => ?_⟩
        by_cases hya : y = a
        · subst hya; simp [hb]
        · exact h4 y (by omega) hyx
      · cases h

/-- A range read back after it is written gives the bytes written. -/
theorem memRead_memWrite (m : Memory) (a : Nat) (bs : List Byte) : memRead (memWrite m a bs) a bs.length = .ok bs :=
  (memRead_ok_iff _ _ _ _).2 ⟨rfl, memByte_memWrite_inside m a bs⟩

theorem memWrite_append (m : Memory) (a : Nat) (xs ys : List Byte) :
    memWrite m a (xs ++ ys) = memWrite (memWrite m a xs) (a + xs.length) ys := by
  induction xs generalizing m a with
  | nil => simp [memWrite]
  | cons x xs ih => simp [memWrite, ih, Nat.add_assoc, Nat.add_comm 1]

/-- A longer range is two ranges in a row. -/
theorem memRead_add {m : Memory} {a n k : Nat} {xs ys : List Byte} (hx : memRead m a n = .ok xs)
    (hy : memRead m (a + n) k = .ok ys) : memRead m a (n + k) = .ok (xs ++ ys) := by
  rw [memRead_ok_iff] at hx hy ⊢
  refine ⟨by simp [hx.1, hy.1], fun i h => ?_⟩
  by_cases hi : i < xs.length
  · rw [List.getElem_append_left hi]; exact hx.2 i hi
  · rw [List.getElem_append_right (by omega)]
    have := hy.2 (i - xs.length) (by simp at h; omega)
    rw [← this]; congr 1; omega

theorem memByte_eq_none_of_lt {m : Memory} {a : Nat} (h : ∀ c ∈ m, a < c.1) : memByte m a = none := by
  induction m with
  | nil => rfl
  | cons d m ih =>
    obtain ⟨y, v⟩ := d
    have hy : a < y := h (y, v) (by simp)
    simp only [memByte]
    rw [if_neg (by omega)]
    exact ih (fun c hc => h c (by simp [hc]))

/-- Two memories in canonical form that read alike are the same data. -/
theorem mem_ext {m k : Memory} (hm : Memory.wf m) (hk : Memory.wf k) (h : ∀ a, memByte m a = memByte k a) : m = k := by
  induction m generalizing k with
  | nil =>
    cases k with
    | nil => rfl
    | cons d k => obtain ⟨y, v⟩ := d; have := h y; simp [memByte] at this
  | cons c m ih =>
    obtain ⟨x, u⟩ := c
    cases k with
    | nil => have := h x; simp [memByte] at this
    | cons d k =>
      obtain ⟨y, v⟩ := d
      simp only [Memory.wf, List.pairwise_cons] at hm hk
      have nx : memByte m x = none := memByte_eq_none_of_lt hm.1
      have ny : memByte k y = none := memByte_eq_none_of_lt hk.1
      have hxy : x = y := by
        rcases Nat.lt_trichotomy x y with hl | hl | hl
        · have h1 := h x
          rw [memByte_eq_none_of_lt (m := (y, v) :: k) (a := x)] at h1
          · simp [memByte] at h1
          · intro c hc
            rcases List.mem_cons.1 hc with rfl | hc
            · exact hl
            · exact Nat.lt_trans hl (hk.1 c hc)
        · exact hl
        · have h1 := h y
          rw [memByte_eq_none_of_lt (m := (x, u) :: m) (a := y)] at h1
          · simp [memByte] at h1
          · intro c hc
            rcases List.mem_cons.1 hc with rfl | hc
            · exact hl
            · exact Nat.lt_trans hl (hm.1 c hc)
      subst hxy
      have huv : u = v := by have := h x; simpa [memByte] using this
      subst huv
      congr 1
      refine ih hm.2 hk.2 (fun a => ?_)
      by_cases ha : a = x
      · subst ha; rw [nx, ny]
      · have := h a
        simpa [memByte, ha] using this

end Sys2Proof.Machine
end

