-- ==== Sys2Proof/Laws/Exec.lean ====
section
/-! SUPPORT. What each shared operation and each meaning can answer, said once: "if it answers next t, then one of these
cases holds". Proofs about commands cite these and never unfold a meaning. -/

namespace Sys2Proof.Machine

/-! ### The shared operations -/

theorem gated_of_err {s : State} {k : Result} (h : s.err = true) : gated s k = .next s := by simp [gated, h]

theorem gated_of_no_err {s : State} {k : Result} (h : s.err = false) : gated s k = k := by simp [gated, h]

theorem gated_next {s t : State} {k : Result} (h : gated s k = .next t) :
    (s.err = true ∧ t = s) ∨ (s.err = false ∧ k = .next t) := by
  unfold gated at h
  split at h
  · cases h; exact .inl ⟨by assumption, rfl⟩
  · exact .inr ⟨by simp_all, h⟩

theorem withBuilt_of_built {alg : Alg} {s : State} {k : Result} (h : algBuilt s.params.hasSha512 alg = true) :
    withBuilt alg s k = k := by simp [withBuilt, h]

theorem withBuilt_next {alg : Alg} {s t : State} {k : Result} (h : withBuilt alg s k = .next t) :
    (algBuilt s.params.hasSha512 alg = false ∧ t = raiseError .notImplemented s) ∨
      (algBuilt s.params.hasSha512 alg = true ∧ k = .next t) := by
  unfold withBuilt at h
  split at h
  · exact .inr ⟨by assumption, h⟩
  · cases h; exact .inl ⟨by simp_all, rfl⟩

theorem withBytes_of_read {s : State} {a n : Nat} {bs : List Byte} {k : List Byte → Result}
    (h : memRead s.mm a n = .ok bs) : withBytes s a n k = k bs := by simp [withBytes, h]

theorem withBytes_next {s t : State} {a n : Nat} {k : List Byte → Result} (h : withBytes s a n k = .next t) :
    ∃ bs, memRead s.mm a n = .ok bs ∧ k bs = .next t := by
  unfold withBytes at h
  split at h
  · cases h
  · exact ⟨_, by assumption, h⟩

theorem withOpen_next {s t : State} {k : OpenAnswer → State → Result} (h : withOpen s k = .next t) :
    ∃ x rest, s.source.opens = x :: rest ∧ k x (tookOpen x rest s) = .next t := by
  unfold withOpen at h
  split at h
  · cases h
  · exact ⟨_, _, by assumption, h⟩

theorem withRead_next {s t : State} {n : Nat} {k : ReadAnswer → State → Result} (h : withRead s n k = .next t) :
    ∃ x rest, s.source.reads = x :: rest ∧ k x (tookRead n x rest s) = .next t := by
  unfold withRead at h
  split at h
  · cases h
  · exact ⟨_, _, by assumption, h⟩

@[simp] theorem inMM_eq_true (s : State) (a n : Nat) : inMM s a n = true ↔ a + n ≤ s.params.mmSize := by
  simp [inMM]

@[simp] theorem inMM_eq_false (s : State) (a n : Nat) : inMM s a n = false ↔ s.params.mmSize < a + n := by
  simp [inMM]

/-! ### The meanings -/

theorem execNop_next {s t : State} (h : execNop s = .next t) : t = s := by cases h; rfl

theorem execClrerr_next {s t : State} (h : execClrerr s = .next t) : t = clearError s := by cases h; rfl

theorem execInit_next {alg : Alg} {s t : State} (h : execInit alg s = .next t) :
    (algBuilt s.params.hasSha512 alg = false ∧ t = raiseError .notImplemented s) ∨
      (algBuilt s.params.hasSha512 alg = true ∧ t = initEffects alg s) := by
  rcases withBuilt_next h with h | ⟨hb, h⟩
  · exact .inl h
  · cases h; exact .inr ⟨hb, rfl⟩

theorem execBswap_next {ws : WordSize} {s t : State} (h : execBswap ws s = .next t) :
    (s.err = true ∧ t = s) ∨
      (s.err = false ∧
        ((lenArg s % wordSizeBytes ws ≠ 0 ∧ t = raiseError .invalidLength s) ∨
          (lenArg s % wordSizeBytes ws = 0 ∧ s.params.mmSize < srcAddr s + lenArg s ∧ t = raiseError .addressRange s) ∨
          (lenArg s % wordSizeBytes ws = 0 ∧ srcAddr s + lenArg s ≤ s.params.mmSize ∧
            ∃ src, memRead s.mm (srcAddr s) (lenArg s) = .ok src ∧
              t = setMM (memWrite s.mm (srcAddr s) (swapBytes (wordSizeBytes ws) src)) s))) := by
  rcases gated_next h with h | ⟨he, h⟩
  · exact .inl h
  refine .inr ⟨he, ?_⟩
  split at h
  · cases h; exact .inl ⟨by assumption, rfl⟩
  split at h
  · cases h; refine .inr (.inl ⟨by simp_all, by simp_all, rfl⟩)
  · obtain ⟨src, hr, h⟩ := withBytes_next h
    cases h
    exact .inr (.inr ⟨by simp_all, by simp_all, src, hr, rfl⟩)

theorem execPad_next {s t : State} (h : execPad s = .next t) :
    (s.err = true ∧ t = s) ∨
      (s.err = false ∧
        ((s.algv = false ∧ t = raiseError .sequenceError s) ∨
          (s.algv = true ∧
            (s.params.mmSize < srcAddr s + lenArg s ∨ s.params.mmSize < dstAddr s + padLen (lenArg s) s.alg) ∧
            t = raiseError .addressRange s) ∨
          (s.algv = true ∧ srcAddr s + lenArg s ≤ s.params.mmSize ∧
            dstAddr s + padLen (lenArg s) s.alg ≤ s.params.mmSize ∧
            ∃ msg, memRead s.mm (srcAddr s) (lenArg s) = .ok msg ∧
              t = setPlen (padLen (lenArg s) s.alg) (setMM (memWrite s.mm (dstAddr s) (pad msg s.alg)) s)))) := by
  rcases gated_next h with h | ⟨he, h⟩
  · exact .inl h
  refine .inr ⟨he, ?_⟩
  split at h
  · cases h; exact .inl ⟨by simp_all, rfl⟩
  split at h
  · cases h; exact .inr (.inl ⟨by simp_all, .inl (by simp_all), rfl⟩)
  split at h
  · cases h; exact .inr (.inl ⟨by simp_all, .inr (by simp_all), rfl⟩)
  · obtain ⟨msg, hr, h⟩ := withBytes_next h
    cases h
    exact .inr (.inr ⟨by simp_all, by simp_all, by simp_all, msg, hr, rfl⟩)

theorem execCompress_next {s t : State} (h : execCompress s = .next t) :
    (s.err = true ∧ t = s) ∨
      (s.err = false ∧
        (((s.algv = false ∨ s.sact = true) ∧ t = raiseError .sequenceError s) ∨
          (s.algv = true ∧ s.sact = false ∧ s.params.mmSize < srcAddr s + compressBytes s ∧
            t = raiseError .addressRange s) ∨
          (s.algv = true ∧ s.sact = false ∧ srcAddr s + compressBytes s ≤ s.params.mmSize ∧
            ∃ data, memRead s.mm (srcAddr s) (compressBytes s) = .ok data ∧
              t = setH (processBlocks s.alg s.h data) s))) := by
  rcases gated_next h with h | ⟨he, h⟩
  · exact .inl h
  refine .inr ⟨he, ?_⟩
  split at h
  · cases h; exact .inl ⟨.inl (by simp_all), rfl⟩
  split at h
  · cases h; exact .inl ⟨.inr (by simp_all), rfl⟩
  split at h
  · cases h; exact .inr (.inl ⟨by simp_all, by simp_all, by simp_all, rfl⟩)
  · obtain ⟨data, hr, h⟩ := withBytes_next h
    cases h
    exact .inr (.inr ⟨by simp_all, by simp_all, by simp_all, data, hr, rfl⟩)

theorem execHashbuf_next {alg : Alg} {s t : State} (h : execHashbuf alg s = .next t) :
    (algBuilt s.params.hasSha512 alg = false ∧ t = raiseError .notImplemented s) ∨
      (algBuilt s.params.hasSha512 alg = true ∧
        ((s.params.mmSize < srcAddr s + lenArg s ∧ t = raiseError .addressRange s) ∨
          (srcAddr s + lenArg s ≤ s.params.mmSize ∧
            ∃ msg, memRead s.mm (srcAddr s) (lenArg s) = .ok msg ∧
              t = setPlen (padLen (lenArg s) alg) (setH (bufferState alg msg) (initEffects alg s))))) := by
  rcases withBuilt_next h with h | ⟨hb, h⟩
  · exact .inl h
  refine .inr ⟨hb, ?_⟩
  split at h
  · cases h; exact .inl ⟨by simp_all, rfl⟩
  · obtain ⟨msg, hr, h⟩ := withBytes_next h
    cases h
    exact .inr ⟨by simp_all, msg, hr, rfl⟩

theorem execStdig_next {s t : State} (h : execStdig s = .next t) :
    (s.err = true ∧ t = s) ∨
      (s.err = false ∧
        (((s.algv = false ∨ s.sact = true) ∧ t = raiseError .sequenceError s) ∨
          (s.algv = true ∧ s.sact = false ∧ s.params.mmSize < dstAddr s + digestBytes s.alg ∧
            t = raiseError .addressRange s) ∨
          (s.algv = true ∧ s.sact = false ∧ dstAddr s + digestBytes s.alg ≤ s.params.mmSize ∧
            t = setMM (memWrite s.mm (dstAddr s) (digest s.alg s.h)) s))) := by
  rcases gated_next h with h | ⟨he, h⟩
  · exact .inl h
  refine .inr ⟨he, ?_⟩
  split at h
  · cases h; exact .inl ⟨.inl (by simp_all), rfl⟩
  split at h
  · cases h; exact .inl ⟨.inr (by simp_all), rfl⟩
  split at h
  · cases h; exact .inr (.inl ⟨by simp_all, by simp_all, by simp_all, rfl⟩)
  · cases h; exact .inr (.inr ⟨by simp_all, by simp_all, by simp_all, rfl⟩)

theorem execSbegin_next {alg : Alg} {s t : State} (h : execSbegin alg s = .next t) :
    (algBuilt s.params.hasSha512 alg = false ∧ t = raiseError .notImplemented s) ∨
      (algBuilt s.params.hasSha512 alg = true ∧
        ∃ x rest, s.source.opens = x :: rest ∧
          ((x.readable = false ∧ t = raiseError .streamUnreadable (tookOpen x rest s)) ∨
            (x.readable = true ∧ x.lengthKnown = false ∧ t = raiseError .lengthRequired (tookOpen x rest s)) ∨
            (x.readable = true ∧ x.lengthKnown = true ∧ 2 ^ 61 ≤ x.total.toNat ∧
              t = raiseError .lengthRange (tookOpen x rest s)) ∨
            (x.readable = true ∧ x.lengthKnown = true ∧ x.total.toNat < 2 ^ 61 ∧
              t = openStream x.total (initEffects alg (tookOpen x rest s))))) := by
  rcases withBuilt_next h with h | ⟨hb, h⟩
  · exact .inl h
  refine .inr ⟨hb, ?_⟩
  obtain ⟨x, rest, hx, h⟩ := withOpen_next h
  refine ⟨x, rest, hx, ?_⟩
  split at h
  · cases h; exact .inl ⟨by simp_all, rfl⟩
  split at h
  · cases h; exact .inr (.inl ⟨by simp_all, by simp_all, rfl⟩)
  split at h
  · cases h; exact .inr (.inr (.inl ⟨by simp_all, by simp_all, by assumption, rfl⟩))
  · cases h; exact .inr (.inr (.inr ⟨by simp_all, by simp_all, by omega, rfl⟩))

theorem execSstep_next {s t : State} (h : execSstep s = .next t) :
    (s.err = true ∧ t = s) ∨
      (s.err = false ∧
        ((s.sact = false ∧ t = raiseError .sequenceError s) ∨
          (s.sact = true ∧ ∃ x rest, s.source.reads = x :: rest ∧
            ((x = .fault ∧ t = raiseError .streamFault (tookRead (stepBytes s) x rest s)) ∨
              (∃ bs, x = .data bs ∧ bs.length ≠ stepBytes s ∧
                t = raiseError .lengthMismatch (tookRead (stepBytes s) x rest s)) ∨
              (∃ bs, x = .data bs ∧ bs.length = stepBytes s ∧
                t = advanceStream (processBlock s.alg s.h (streamBuffer s.alg s.mlen.toNat s.pinj bs)) bs.length
                  (injects s.alg s.pinj bs.length) (placesFooter s.alg s.pinj bs.length)
                  (tookRead (stepBytes s) x rest s)))))) := by
  rcases gated_next h with h | ⟨he, h⟩
  · exact .inl h
  refine .inr ⟨he, ?_⟩
  split at h
  · cases h; exact .inl ⟨by simp_all, rfl⟩
  · obtain ⟨x, rest, hx, h⟩ := withRead_next h
    refine .inr ⟨by simp_all, x, rest, hx, ?_⟩
    cases x with
    | fault => cases h; exact .inl ⟨rfl, rfl⟩
    | data bs =>
      simp only at h
      split at h
      · cases h; exact .inr (.inl ⟨bs, rfl, by assumption, rfl⟩)
      · cases h; exact .inr (.inr ⟨bs, rfl, by simp_all, rfl⟩)

/-! ### The meanings where they complete -/

theorem execBswap_of_read {ws : WordSize} {s : State} {bs : List Byte} (he : s.err = false)
    (hw : lenArg s % wordSizeBytes ws = 0) (hr : srcAddr s + lenArg s ≤ s.params.mmSize)
    (hm : memRead s.mm (srcAddr s) (lenArg s) = .ok bs) :
    execBswap ws s = .next (setMM (memWrite s.mm (srcAddr s) (swapBytes (wordSizeBytes ws) bs)) s) := by
  have h1 := (inMM_eq_true s (srcAddr s) (lenArg s)).2 hr
  simp [execBswap, gated_of_no_err he, hw, h1, withBytes_of_read hm]

theorem execPad_of_read {s : State} {msg : List Byte} (he : s.err = false) (ha : s.algv = true)
    (hr : srcAddr s + lenArg s ≤ s.params.mmSize) (hd : dstAddr s + padLen (lenArg s) s.alg ≤ s.params.mmSize)
    (hm : memRead s.mm (srcAddr s) (lenArg s) = .ok msg) :
    execPad s = .next (setPlen (padLen (lenArg s) s.alg) (setMM (memWrite s.mm (dstAddr s) (pad msg s.alg)) s)) := by
  have h1 := (inMM_eq_true s (srcAddr s) (lenArg s)).2 hr
  have h2 := (inMM_eq_true s (dstAddr s) (padLen (lenArg s) s.alg)).2 hd
  simp [execPad, gated_of_no_err he, ha, h1, h2, withBytes_of_read hm]

theorem execCompress_of_read {s : State} {data : List Byte} (he : s.err = false) (ha : s.algv = true)
    (hs : s.sact = false) (hr : srcAddr s + compressBytes s ≤ s.params.mmSize)
    (hm : memRead s.mm (srcAddr s) (compressBytes s) = .ok data) :
    execCompress s = .next (setH (processBlocks s.alg s.h data) s) := by
  have h1 := (inMM_eq_true s (srcAddr s) (compressBytes s)).2 hr
  simp [execCompress, gated_of_no_err he, ha, hs, h1, withBytes_of_read hm]

theorem execHashbuf_of_read {alg : Alg} {s : State} {msg : List Byte} (hb : algBuilt s.params.hasSha512 alg = true)
    (hr : srcAddr s + lenArg s ≤ s.params.mmSize) (hm : memRead s.mm (srcAddr s) (lenArg s) = .ok msg) :
    execHashbuf alg s = .next (setPlen (padLen (lenArg s) alg) (setH (bufferState alg msg) (initEffects alg s))) := by
  have h1 := (inMM_eq_true s (srcAddr s) (lenArg s)).2 hr
  simp [execHashbuf, withBuilt_of_built hb, h1, withBytes_of_read hm]

theorem execSstep_of_data {s : State} {bs : List Byte} {rest : List ReadAnswer} (he : s.err = false)
    (hs : s.sact = true) (hx : s.source.reads = .data bs :: rest) (hl : bs.length = stepBytes s) :
    execSstep s = .next (advanceStream (processBlock s.alg s.h (streamBuffer s.alg s.mlen.toNat s.pinj bs)) bs.length
      (injects s.alg s.pinj bs.length) (placesFooter s.alg s.pinj bs.length)
      (tookRead (stepBytes s) (.data bs) rest s)) := by
  simp [execSstep, gated_of_no_err he, hs, withRead, hx, hl]

/-! ### The host's accesses -/

theorem commandWrite_next {c : Word32} {s t : State} (h : commandWrite c s = .next t) :
    t = s ∨ (∃ e, decode s.params.hasSha512 c = .error e ∧ t = raiseError e s) ∨
      (∃ i, decode s.params.hasSha512 c = .ok i ∧ exec i s = .next t) := by
  unfold commandWrite at h
  split at h
  · cases h; exact .inl rfl
  split at h
  · cases h; exact .inr (.inl ⟨_, by assumption, rfl⟩)
  · exact .inr (.inr ⟨_, by assumption, h⟩)

/-- What a register write leaves: an operand register or one register of the bank replaced, or nothing. -/
theorem regWrite_cases (s : State) (o : Nat) (v : Word32) :
    regWrite s o v = setA0 v s ∨ regWrite s o v = setA1 v s ∨ regWrite s o v = setA2 v s ∨
      ((0x080 ≤ o ∧ o < 0x0C0) ∧ ∃ i w, i < 8 ∧ regWrite s o v = setHReg i w s) ∨ regWrite s o v = s := by
  unfold regWrite
  split
  · exact .inl rfl
  split
  · exact .inr (.inl rfl)
  split
  · exact .inr (.inr (.inl rfl))
  split
  · split
    · exact .inr (.inr (.inr (.inl ⟨by assumption, _, _, by omega, rfl⟩)))
    · exact .inr (.inr (.inr (.inl ⟨by assumption, _, _, by omega, rfl⟩)))
  · exact .inr (.inr (.inr (.inr rfl)))

theorem hostAccess_next {a : HostAccess} {s t : State} (h : hostAccess a s = .next t) :
    (∃ v, a = .regWrite 0 v ∧ commandWrite v s = .next t) ∨
      (∃ o v, a = .regWrite o v ∧ validOffset o = true ∧ o ≠ 0 ∧ t = regWrite s o v) ∨
      (∃ o, a = .regRead o ∧ validOffset o = true ∧ t = setReply (.reg (regRead s o)) s) ∨
      (∃ x bs, a = .mmWrite x bs ∧ x + bs.length ≤ s.params.mmSize ∧ t = setMM (memWrite s.mm x bs) s) ∨
      (∃ x n bs, a = .mmRead x n ∧ x + n ≤ s.params.mmSize ∧ memRead s.mm x n = .ok bs ∧
        t = setReply (.bytes bs) s) ∨
      (∃ src, a = .attach src ∧ t = attachSource src s) ∨ (a = .reset ∧ t = resetEngine s) := by
  cases a with
  | regWrite o v =>
    simp only [hostAccess] at h
    split at h
    · cases h
    split at h
    · subst_vars; exact .inl ⟨v, rfl, h⟩
    · cases h; exact .inr (.inl ⟨o, v, rfl, by simp_all, by assumption, rfl⟩)
  | regRead o =>
    simp only [hostAccess] at h
    split at h
    · cases h
    · cases h; exact .inr (.inr (.inl ⟨o, rfl, by simp_all, rfl⟩))
  | regOther o w => cases h
  | mmWrite x bs =>
    simp only [hostAccess, hostMMWrite] at h
    split at h
    · cases h
    · cases h; exact .inr (.inr (.inr (.inl ⟨x, bs, rfl, by simp_all, rfl⟩)))
  | mmRead x n =>
    simp only [hostAccess, hostMMRead] at h
    split at h
    · cases h
    · obtain ⟨bs, hr, h⟩ := withBytes_next h
      cases h
      exact .inr (.inr (.inr (.inr (.inl ⟨x, n, bs, rfl, by simp_all, hr, rfl⟩))))
  | attach src => cases h; exact .inr (.inr (.inr (.inr (.inr (.inl ⟨src, rfl, rfl⟩)))))
  | reset => cases h; exact .inr (.inr (.inr (.inr (.inr (.inr ⟨rfl, rfl⟩)))))
  | resetDuringCommand => cases h
  | sharedSource => cases h

theorem hostStep_of_pending {s : State} {a : HostAccess} {rest : List HostAccess} (h : s.pending = a :: rest) :
    hostStep s = hostAccess a (setReply .nothing (setPending rest s)) := by simp [hostStep, h]

theorem hostStep_next {s t : State} (h : hostStep s = .next t) :
    (s.pending = [] ∧ t = s) ∨
      (∃ a rest, s.pending = a :: rest ∧ hostAccess a (setReply .nothing (setPending rest s)) = .next t) := by
  unfold hostStep at h
  split at h
  · cases h; exact .inl ⟨by assumption, rfl⟩
  · exact .inr ⟨_, _, by assumption, h⟩

end Sys2Proof.Machine
end

