-- ==== Sys2Proof/Laws/Hash.lean ====
section
/-! SUPPORT. The laws of padding, of the stream buffer, and of the functions on the bank. -/

namespace Sys2Proof.Machine

/-! ### Parameters -/

theorem blockSize_pos (alg : Alg) : 0 < (algParams alg).B := by cases alg <;> decide

theorem footer_lt_block (alg : Alg) : (algParams alg).F < (algParams alg).B := by cases alg <;> decide

theorem footer_pos (alg : Alg) : 0 < (algParams alg).F := by cases alg <;> decide

/-! ### Padding -/

theorem lenField_length (L : Nat) (alg : Alg) : (lenField L alg).length = (algParams alg).F := by simp [lenField]

/-- The padded length has room for the message, the padding byte and the footer. -/
theorem padLen_ge (L : Nat) (alg : Alg) : L + 1 + (algParams alg).F ≤ padLen L alg := by
  cases alg <;> simp only [padLen, algParams] <;> omega

/-- The padded length is less than one block more than that. -/
theorem padLen_lt (L : Nat) (alg : Alg) : padLen L alg < L + 1 + (algParams alg).F + (algParams alg).B := by
  cases alg <;> simp only [padLen, algParams] <;> omega

theorem padLen_mod (L : Nat) (alg : Alg) : padLen L alg % (algParams alg).B = 0 := by simp [padLen]

/-- A whole number of blocks that has the room and no block to spare is the padded length. -/
theorem eq_padLen {n L : Nat} {alg : Alg} (hd : n % (algParams alg).B = 0) (hl : L + 1 + (algParams alg).F ≤ n)
    (hu : n < L + 1 + (algParams alg).F + (algParams alg).B) : n = padLen L alg := by
  cases alg <;> simp only [padLen, algParams] at * <;> omega

theorem pad_length (msg : List Byte) (alg : Alg) : (pad msg alg).length = padLen msg.length alg := by
  have := padLen_ge msg.length alg
  simp only [pad, List.length_append, List.length_singleton, zeros_length, lenField_length]
  omega

/-! ### The stream buffer -/

/-- Where the footer goes when the padding byte goes into this block (R177, R178). -/
theorem placesFooter_of_injects {alg : Alg} {pinj : Bool} {n : Nat} (h : injects alg pinj n = true) :
    placesFooter alg pinj n = decide (n + 1 + (algParams alg).F ≤ (algParams alg).B) := by
  simp [placesFooter, fillPoint, h, Config.streamMargin]

/-- Where the footer goes when it does not (R177, R178). -/
theorem placesFooter_of_not_injects {alg : Alg} {pinj : Bool} {n : Nat} (h : injects alg pinj n = false) :
    placesFooter alg pinj n = decide (n + (algParams alg).F ≤ (algParams alg).B) := by
  simp [placesFooter, fillPoint, h, Config.streamMargin]

/-- The buffer of an iteration that injects nothing and has no room for the footer: the bytes, zero-filled. -/
theorem streamBuffer_plain {alg : Alg} {N : Nat} {pinj : Bool} {bs : List Byte}
    (hi : injects alg pinj bs.length = false) (hf : placesFooter alg pinj bs.length = false) :
    streamBuffer alg N pinj bs = bs ++ zeros ((algParams alg).B - bs.length) := by
  simp [streamBuffer, hi, hf]

theorem zeros_succ (n : Nat) : zeros (n + 1) = 0 :: zeros n := rfl

theorem zeros_take (n k : Nat) : (zeros n).take k = zeros (min k n) := by simp [zeros, List.take_replicate]

/-- The padding byte put behind the bytes delivered. -/
theorem set_padding (bs : List Byte) {B : Nat} (h : bs.length < B) :
    (bs ++ zeros (B - bs.length)).set bs.length 0x80 = bs ++ [0x80] ++ zeros (B - (bs.length + 1)) := by
  have : B - bs.length = (B - (bs.length + 1)) + 1 := by omega
  rw [this, zeros_succ]
  simp

/-- The buffer of an iteration that injects the padding byte and has no room for the footer. -/
theorem streamBuffer_inject {alg : Alg} {N : Nat} {pinj : Bool} {bs : List Byte} (hb : bs.length < (algParams alg).B)
    (hi : injects alg pinj bs.length = true) (hf : placesFooter alg pinj bs.length = false) :
    streamBuffer alg N pinj bs = bs ++ [0x80] ++ zeros ((algParams alg).B - (bs.length + 1)) := by
  simp only [streamBuffer, hi, hf, if_true, if_false, Bool.false_eq_true]
  exact set_padding bs hb

/-- The buffer of an iteration that injects the padding byte and places the footer. -/
theorem streamBuffer_inject_footer {alg : Alg} {N : Nat} {pinj : Bool} {bs : List Byte}
    (hb : bs.length + 1 + (algParams alg).F ≤ (algParams alg).B) (hi : injects alg pinj bs.length = true)
    (hf : placesFooter alg pinj bs.length = true) :
    streamBuffer alg N pinj bs =
      bs ++ [0x80] ++ zeros ((algParams alg).B - (algParams alg).F - (bs.length + 1)) ++ lenField N alg := by
  have hF := footer_pos alg
  simp only [streamBuffer, hi, hf, if_true]
  rw [set_padding bs (by omega)]
  congr 1
  rw [List.take_append]
  have h1 : (bs ++ [(0x80 : Byte)]).length = bs.length + 1 := by simp
  rw [List.take_of_length_le (by omega), h1, zeros_take]
  congr 2
  omega

/-- The buffer of the iteration that only places the footer. -/
theorem streamBuffer_footer {alg : Alg} {N : Nat} {pinj : Bool} {bs : List Byte}
    (hb : bs.length + (algParams alg).F ≤ (algParams alg).B) (hi : injects alg pinj bs.length = false)
    (hf : placesFooter alg pinj bs.length = true) :
    streamBuffer alg N pinj bs = bs ++ zeros ((algParams alg).B - (algParams alg).F - bs.length) ++ lenField N alg := by
  simp only [streamBuffer, hi, hf, if_true, if_false, Bool.false_eq_true]
  congr 1
  rw [List.take_append, List.take_of_length_le (by omega), zeros_take]
  congr 2
  omega

/-! ### The bank -/

theorem bankReg_lt (h : Bank) (i : Nat) (hi : i < 8) : bankReg h i = h[i] := by
  simp [bankReg, hi]

/-- Blocks folded in by position, which is how the rules write the loop (46_hasher R287, R288). -/
theorem processBlocks_eq_range (alg : Alg) (h : Bank) (bs : List Byte) :
    processBlocks alg h bs =
      (List.range (bs.length / (algParams alg).B)).foldl
        (fun h j => processBlock alg h ((bs.drop (j * (algParams alg).B)).take (algParams alg).B)) h := by
  have hg : groups (algParams alg).B bs =
      (List.range (bs.length / (algParams alg).B)).map
        (fun j => (bs.drop (j * (algParams alg).B)).take (algParams alg).B) := by
    apply List.ext_getElem
    · simp
    · intro i h1 h2
      simp [groups_getElem]
  rw [processBlocks, hg, List.foldl_map]

/-- Blocks in two parts are folded one part after the other. -/
theorem processBlocks_append (alg : Alg) (h : Bank) {xs ys : List Byte} (hx : xs.length % (algParams alg).B = 0)
    (hy : ys.length % (algParams alg).B = 0) :
    processBlocks alg h (xs ++ ys) = processBlocks alg (processBlocks alg h xs) ys := by
  simp [processBlocks, groups_append (blockSize_pos alg) hx hy]

theorem processBlocks_one (alg : Alg) (h : Bank) {b : List Byte} (hb : b.length = (algParams alg).B) :
    processBlocks alg h b = processBlock alg h b := by
  have h1 : groups (algParams alg).B b = [b] := by
    have := groups_of_flatten (blockSize_pos alg) [b] (by simp [hb])
    simpa using this
  simp [processBlocks, h1]

theorem digest_length (alg : Alg) (h : Bank) : (digest alg h).length = digestBytes alg := by
  have hl : ∀ W n, n ≤ 8 → (stateWords W n h).length = n := by
    intro W n hn; simp [stateWords, hn]
  cases alg <;> simp only [digest, wordsToBytes_length, digestBytes, hashLengthBits, algParams] <;> rw [hl _ _ (by decide)]

/-! ### The schedule -/

theorem extendSchedule_length {w : Nat} (s0 s1 : BitVec w → BitVec w) (n : Nat) (ws : List (BitVec w)) :
    (extendSchedule s0 s1 n ws).length = n + ws.length := by
  induction n generalizing ws with
  | zero => simp [extendSchedule]
  | succ n ih => simp [extendSchedule, ih]; omega

/-- Extending keeps the words that are there: they stand at the end, oldest last. -/
theorem extendSchedule_suffix {w : Nat} (s0 s1 : BitVec w → BitVec w) (n : Nat) (ws : List (BitVec w)) :
    ∃ new, extendSchedule s0 s1 n ws = new ++ ws ∧ new.length = n := by
  induction n generalizing ws with
  | zero => exact ⟨[], rfl, rfl⟩
  | succ n ih =>
    obtain ⟨new, h, hl⟩ := ih ((s1 (ws.getD 1 0) + ws.getD 6 0 + s0 (ws.getD 14 0) + ws.getD 15 0) :: ws)
    exact ⟨new ++ [s1 (ws.getD 1 0) + ws.getD 6 0 + s0 (ws.getD 14 0) + ws.getD 15 0],
      by simp only [extendSchedule, h, List.append_assoc, List.singleton_append], by simp [hl]⟩

end Sys2Proof.Machine
end

