-- ==== Sys2Proof/Laws/Decode.lean ====
section
/-! SUPPORT. The fields of a command word and of the words that `encode` writes. -/

namespace Sys2Proof

theorem opField_toNat (c : Word32) : (opField c).toNat = c.toNat % 256 := by
  simp [opField, BitVec.extractLsb'_toNat]

theorem algField_toNat (c : Word32) : (algField c).toNat = c.toNat / 256 % 8 := by
  simp [algField, BitVec.extractLsb'_toNat, Nat.shiftRight_eq_div_pow]

theorem wsField_toNat (c : Word32) : (wsField c).toNat = c.toNat / 2048 % 4 := by
  simp [wsField, BitVec.extractLsb'_toNat, Nat.shiftRight_eq_div_pow]

theorem rsvField_toNat (c : Word32) : (rsvField c).toNat = c.toNat / 8192 := by
  have := c.isLt
  simp [rsvField, BitVec.extractLsb'_toNat, Nat.shiftRight_eq_div_pow]
  omega

theorem formatC_toNat (op : BitVec 8) (alg : BitVec 3) (ws : BitVec 2) :
    (formatC op alg ws).toNat = ws.toNat * 2048 + alg.toNat * 256 + op.toNat := by
  have h1 := op.isLt
  have h2 := alg.isLt
  have h3 := ws.isLt
  have h4 : (0 : BitVec 19).toNat = 0 := rfl
  simp only [formatC, BitVec.toNat_append, h4, Nat.shiftLeft_eq]
  rw [← Nat.shiftLeft_eq, ← Nat.shiftLeft_add_eq_or_of_lt h1, ← Nat.shiftLeft_eq]
  rw [← Nat.shiftLeft_add_eq_or_of_lt h2, ← Nat.shiftLeft_eq, ← Nat.shiftLeft_add_eq_or_of_lt h3]
  simp only [Nat.shiftLeft_eq]
  omega

@[simp] theorem opField_formatC (op : BitVec 8) (alg : BitVec 3) (ws : BitVec 2) : opField (formatC op alg ws) = op := by
  apply BitVec.eq_of_toNat_eq
  have h1 := op.isLt
  have h2 := alg.isLt
  have h3 := ws.isLt
  rw [opField_toNat, formatC_toNat]; omega

@[simp] theorem algField_formatC (op : BitVec 8) (alg : BitVec 3) (ws : BitVec 2) :
    algField (formatC op alg ws) = alg := by
  apply BitVec.eq_of_toNat_eq
  have h1 := op.isLt
  have h2 := alg.isLt
  have h3 := ws.isLt
  rw [algField_toNat, formatC_toNat]; omega

@[simp] theorem wsField_formatC (op : BitVec 8) (alg : BitVec 3) (ws : BitVec 2) : wsField (formatC op alg ws) = ws := by
  apply BitVec.eq_of_toNat_eq
  have h1 := op.isLt
  have h2 := alg.isLt
  have h3 := ws.isLt
  rw [wsField_toNat, formatC_toNat]; omega

@[simp] theorem rsvField_formatC (op : BitVec 8) (alg : BitVec 3) (ws : BitVec 2) : rsvField (formatC op alg ws) = 0 := by
  apply BitVec.eq_of_toNat_eq
  have h1 := op.isLt
  have h2 := alg.isLt
  have h3 := ws.isLt
  rw [rsvField_toNat, formatC_toNat]; simp; omega

/-- A word whose RSV is zero is the format C word of its fields. -/
theorem eq_formatC_of_rsv {c : Word32} (h : rsvField c = 0) : c = formatC (opField c) (algField c) (wsField c) := by
  apply BitVec.eq_of_toNat_eq
  have h1 : (rsvField c).toNat = 0 := by rw [h]; rfl
  rw [rsvField_toNat] at h1
  rw [formatC_toNat, opField_toNat, algField_toNat, wsField_toNat]
  omega

@[simp] theorem algOfCode_algCode (a : Alg) : algOfCode (algCode a) = some a := by cases a <;> rfl

@[simp] theorem wsOfCode_wsCode (w : WordSize) : wsOfCode (wsCode w) = some w := by cases w <;> rfl

theorem algOfCode_eq_some {b : BitVec 3} {a : Alg} (h : algOfCode b = some a) : b = algCode a := by
  unfold algOfCode at h
  split at h
  · cases h; assumption
  · split at h
    · cases h; assumption
    · split at h
      · cases h; assumption
      · split at h
        · cases h; assumption
        · cases h

theorem wsOfCode_eq_some {b : BitVec 2} {w : WordSize} (h : wsOfCode b = some w) : b = wsCode w := by
  unfold wsOfCode at h
  split at h
  · cases h; assumption
  · split at h
    · cases h; assumption
    · cases h

theorem algOfCode_eq_none_iff (b : BitVec 3) : algOfCode b = none ↔ 4 ≤ b.toNat := by revert b; decide

theorem wsOfCode_eq_none_iff (b : BitVec 2) : wsOfCode b = none ↔ 2 ≤ b.toNat := by revert b; decide

theorem plainInstr_eq_some {op : BitVec 8} {i : Instr} (h : plainInstr op = some i) :
    opcode i = op ∧ encode i = formatC op 0 0 := by
  unfold plainInstr at h
  split at h
  · cases h; subst_vars; exact ⟨rfl, rfl⟩
  · split at h
    · cases h; subst_vars; exact ⟨rfl, rfl⟩
    · split at h
      · cases h; subst_vars; exact ⟨rfl, rfl⟩
      · split at h
        · cases h; subst_vars; exact ⟨rfl, rfl⟩
        · split at h
          · cases h; subst_vars; exact ⟨rfl, rfl⟩
          · split at h
            · cases h; subst_vars; exact ⟨rfl, rfl⟩
            · cases h

@[simp] theorem opField_encode (i : Instr) : opField (encode i) = opcode i := by cases i <;> simp [encode]

@[simp] theorem rsvField_encode (i : Instr) : rsvField (encode i) = 0 := by cases i <;> simp [encode]

/-- Every command's OP is one of the ten (30_encoding R102). -/
theorem opcode_toNat_le (i : Instr) : (opcode i).toNat ≤ 9 := by cases i <;> simp [opcode]

end Sys2Proof
end

