-- ==== Sys2Proof/Laws/PerInstr.lean ====
section
/-! SUPPORT. What holds of every command as syntax, one lemma per constructor. -/

namespace Sys2Proof.Laws.EncodingFields

/-- The command's word has its OP in bits 7:0, zero in RSV, and zero in each of ALG and WS that its opcode does not use
(30_encoding R101-R103, R106). -/
def Statement (i : Instr) : Prop :=
  opField (encode i) = opcode i ∧ rsvField (encode i) = 0 ∧
    (opcode i = 0x01 ∨ opcode i = 0x04 ∨ opcode i = 0x05 ∨ algField (encode i) = 0) ∧
    (opcode i = 0x07 ∨ wsField (encode i) = 0)

theorem nop : Statement .nop := by simp [Statement, encode, opcode]

theorem init (alg : Alg) : Statement (.init alg) := by simp [Statement, encode, opcode]

theorem pad : Statement .pad := by simp [Statement, encode, opcode]

theorem compress : Statement .compress := by simp [Statement, encode, opcode]

theorem hashbuf (alg : Alg) : Statement (.hashbuf alg) := by simp [Statement, encode, opcode]

theorem sbegin (alg : Alg) : Statement (.sbegin alg) := by simp [Statement, encode, opcode]

theorem sstep : Statement .sstep := by simp [Statement, encode, opcode]

theorem bswap (ws : WordSize) : Statement (.bswap ws) := by simp [Statement, encode, opcode]

theorem stdig : Statement .stdig := by simp [Statement, encode, opcode]

theorem clrerr : Statement .clrerr := by simp [Statement, encode, opcode]

end Sys2Proof.Laws.EncodingFields
end

