-- ==== Sys2Proof/Machine/Assembly.lean ====
section
/-! DEFINITION. The host assembly language (30_encoding R111, R112) as the host accesses it stands for. -/

namespace Sys2Proof.Machine

/-- The registers that `wr` and `rd` may name (R111); `wr` is used on A0, A1, A2 and the halves of H. -/
inductive RegName where
  | status
  | cause
  | id
  | mmSize
  | a0
  | a1
  | a2
  | plenLo
  | plenHi
  | mlenLo
  | mlenHi
  | bcntLo
  | bcntHi
  | hLo (i : Fin 8)
  | hHi (i : Fin 8)
  | digest (k : Fin 16)
deriving DecidableEq, Repr

/-- The offset of a register (10_state R56). -/
def regOffset : RegName → Nat
  | .status => 0x004
  | .cause => 0x008
  | .id => 0x00C
  | .mmSize => 0x010
  | .a0 => 0x020
  | .a1 => 0x024
  | .a2 => 0x028
  | .plenLo => 0x030
  | .plenHi => 0x034
  | .mlenLo => 0x038
  | .mlenHi => 0x03C
  | .bcntLo => 0x040
  | .bcntHi => 0x044
  | .hLo i => 0x080 + 8 * i.val
  | .hHi i => 0x084 + 8 * i.val
  | .digest k => 0x0C0 + 4 * k.val

/-- A statement of the assembly language (R111). -/
inductive AsmStmt where
  | wr (reg : RegName) (value : Word32)
  | rd (reg : RegName)
  | mmw (addr : Nat) (bs : List Byte)
  | mmr (addr n : Nat)
  | cmd (i : Instr)
  /-- `cmd` with its fields written as numbers, reserved values among them (R111). -/
  | cmdFields (op : BitVec 8) (alg : BitVec 3) (ws : BitVec 2)
deriving DecidableEq, Repr

/-- The host access of a statement (R111). -/
def asmAccess : AsmStmt → HostAccess
  | .wr reg v => .regWrite (regOffset reg) v
  | .rd reg => .regRead (regOffset reg)
  | .mmw a bs => .mmWrite a bs
  | .mmr a n => .mmRead a n
  | .cmd i => .regWrite 0 (encode i)
  | .cmdFields op alg ws => .regWrite 0 (formatC op alg ws)

/-- The pseudo-instructions (R112). The loop of `shash` is host control flow, so the number of its turns is an argument
that the host decides by reading STATUS. -/
inductive Pseudo where
  | init (alg : Alg)
  | pad (src dst len : Word32)
  | compress (src nblk : Word32)
  | hashbuf (alg : Alg) (src len : Word32)
  | bswap (ws : WordSize) (addr len : Word32)
  | stdig (dst : Word32)
  | hash (alg : Alg) (src len dst : Word32)
  | shash (alg : Alg) (dst : Word32) (turns : Nat)
deriving DecidableEq, Repr

/-- The expansion of a pseudo-instruction (R112). -/
def expandPseudo : Pseudo → List AsmStmt
  | .init alg => [.cmd (.init alg)]
  | .pad src dst len => [.wr .a0 src, .wr .a1 dst, .wr .a2 len, .cmd .pad]
  | .compress src n => [.wr .a0 src, .wr .a2 n, .cmd .compress]
  | .hashbuf alg src len => [.wr .a0 src, .wr .a2 len, .cmd (.hashbuf alg)]
  | .bswap ws addr len => [.wr .a0 addr, .wr .a2 len, .cmd (.bswap ws)]
  | .stdig dst => [.wr .a1 dst, .cmd .stdig]
  | .hash alg src len dst => [.wr .a0 src, .wr .a2 len, .cmd (.hashbuf alg), .wr .a1 dst, .cmd .stdig]
  | .shash alg dst turns =>
    .cmd (.sbegin alg) :: (List.replicate turns [AsmStmt.cmd .sstep, .rd .status]).flatten ++ [.wr .a1 dst, .cmd .stdig]

/-- A host program put before the accesses that still wait. -/
def loadProgram (prog : List AsmStmt) (s : State) : State := setPending (prog.map asmAccess ++ s.pending) s

end Sys2Proof.Machine
end

