-- ==== Sys2Proof/Machine/System.lean ====
section
/-! DEFINITION. A system of N_ENGINES instances that share nothing (00_scope R13, 60_exceptions R345), each placed in the
platform's address map at its REG_BASE and MM_BASE (20_memory R77). -/

namespace Sys2Proof.Machine

/-- The instances of a system, in the platform's order. -/
structure System where
  engines : List State
deriving DecidableEq, Repr

/-- N_ENGINES, the number of instances (00_scope R13). -/
def System.nEngines (sys : System) : Nat := sys.engines.length

/-- The bound of R13 and R345, N_ENGINES ≥ 1, and R10's bound for every instance. It is a hypothesis of statements about a
system, as Params.wf is of statements about one instance (log 16). -/
abbrev System.wf (sys : System) : Prop := 1 ≤ sys.nEngines ∧ ∀ s ∈ sys.engines, s.params.wf

/-- All instances in the reset state, one for each set of parameters (R345). The parameters give N_ENGINES as their
number, at least 1 (R13; log 16). -/
def System.reset (ps : List Params) : System := { engines := ps.map State.resetWith }

/-- One step of instance `k`: its next host access. The other instances keep their states (R345). A step of an instance
that the system does not have changes nothing (log 16). -/
def systemStep (k : Nat) (sys : System) : Host.Outcome System Fault Refusal :=
  match sys.engines[k]? with
  | none => .next sys
  | some s =>
    match step s with
    | .next t => .next { engines := sys.engines.set k t }
    | .fault f => .fault f
    | .refused r => .refused r

/-- Whether a system address lies in an instance's register space (R77). -/
def inRegSpace (addr : Nat) (s : State) : Bool :=
  decide (s.params.regBase ≤ addr) && decide (addr < s.params.regBase + 0x1000)

/-- Whether a system address lies in an instance's message memory (R77). -/
def inMMSpace (addr : Nat) (s : State) : Bool :=
  decide (s.params.mmBase ≤ addr) && decide (addr < s.params.mmBase + s.params.mmSize)

/-- The instance and the register offset that a system address names: instances are told apart by their REG_BASE
(R345). -/
def locateReg (addr : Nat) (sys : System) : Option (Nat × Nat) :=
  match sys.engines.findIdx? (inRegSpace addr) with
  | none => none
  | some k => (sys.engines[k]?).map (fun s => (k, addr - s.params.regBase))

/-- The instance and the MM address that a system address names (R77). -/
def locateMM (addr : Nat) (sys : System) : Option (Nat × Nat) :=
  match sys.engines.findIdx? (inMMSpace addr) with
  | none => none
  | some k => (sys.engines[k]?).map (fun s => (k, addr - s.params.mmBase))

end Sys2Proof.Machine
end

