-- ==== Sys2Proof/Safety.lean ====
section
/-! DEFINITION. The terms in which claims about KEHC are made: the invariants of its states (10_state R52), what a
conforming stream source delivers (20_memory R82), and a stream hash as repeated SSTEPs (42_stream R170). -/

namespace Sys2Proof.Machine

/-- What holds of every state reachable from reset (R52 (a) to (e)), with what else the model keeps: CAUSE holds a
defined code (93 I1), the current algorithm is built (45 R267), and memory is in canonical form inside MM. -/
structure Inv (s : State) : Prop where
  /-- R52 (a). -/
  streamOpen : s.sact = true →
    s.algv = true ∧ s.err = false ∧ s.sdone = false ∧ s.bcnt.toNat ≤ s.mlen.toNat ∧ s.mlen.toNat < 2 ^ 61
  /-- R52 (b). -/
  streamDone : s.sdone = true → s.sact = false ∧ s.pinj = true ∧ s.bcnt = s.mlen
  /-- R52 (c). -/
  paddingIn : s.pinj = true → s.sact = true → s.bcnt = s.mlen
  /-- R52 (d). -/
  errCause : s.err = false ↔ s.cause = 0
  /-- R52 (e). -/
  errCursor : s.err = true → s.sact = false ∧ s.pinj = false ∧ s.sdone = false
  /-- CAUSE never takes the reserved codes (93 I1). -/
  causeDefined : s.cause.toNat ≤ 10
  /-- ALG never holds an algorithm that is not built (45 R267). -/
  algIsBuilt : algBuilt s.params.hasSha512 s.alg = true
  /-- Memory is in canonical form. -/
  mmSorted : Memory.wf s.mm
  /-- No byte is listed outside MM. -/
  mmInside : ∀ c ∈ s.mm, c.1 < s.params.mmSize

/-- R52 (f) for a state in which the host has not written H: under a 32-bit algorithm the high half of every state word
is zero. -/
def HighHalvesClear (s : State) : Prop :=
  s.alg ≠ .sha512 → ∀ i, i < (algParams s.alg).nH → (highHalf (bankReg s.h i)) = 0

/-- Whether an access is a host write into the window of H (R34, R56). -/
def writesBank : HostAccess → Bool
  | .regWrite o _ => decide (0x080 ≤ o) && decide (o < 0x0C0)
  | .regRead _ | .regOther _ _ | .mmWrite _ _ | .mmRead _ _ | .attach _ | .reset | .resetDuringCommand
  | .sharedSource => false

/-- The starting commands (00_scope R23). -/
def isStarting : Instr → Bool
  | .init _ | .hashbuf _ | .sbegin _ => true
  | .nop | .pad | .compress | .sstep | .bswap _ | .stdig | .clrerr => false

/-- How often a command that completes without an error applies processBlock (70_reset_and_hazards R382). -/
def blockCount (i : Instr) (s : State) : Nat :=
  match i with
  | .compress => lenArg s
  | .hashbuf alg => padLen (lenArg s) alg / (algParams alg).B
  | .sstep => 1
  | .nop | .init _ | .pad | .sbegin _ | .bswap _ | .stdig | .clrerr => 0

/-- MM holds the given bytes at an address. -/
def holdsBytes (s : State) (a : Nat) (bs : List Byte) : Prop :=
  ∀ i (h : i < bs.length), memByte s.mm (a + i) = some bs[i]

/-- The answers that a source keeping the duties of R82 gives to the SSTEPs of one stream hash of a message: each time
the next bytes of the message, at most a block of them. -/
def conformingReads (alg : Alg) (msg : List Byte) : List ReadAnswer :=
  (List.range (padLen msg.length alg / (algParams alg).B)).map
    (fun i => .data ((msg.drop (i * (algParams alg).B)).take (algParams alg).B))

/-- `n` SSTEPs in a row, stopping at the first stop (R170). -/
def runSteps : Nat → State → Result
  | 0, s => .next s
  | n + 1, s =>
    match exec .sstep s with
    | .next t => runSteps n t
    | .fault f => .fault f
    | .refused r => .refused r

/-- Whether a run that ends in this state has a digest (70_reset_and_hazards R383). -/
def digestDefined (s : State) : Prop := s.err = false ∧ s.algv = true ∧ s.sact = false

end Sys2Proof.Machine
end

