-- ==== Sys2Proof/Certificates/Slice0/Obligations.lean ====
section
/-! DEFINITION. What is claimed of KEHC, each as a proposition. Each names the rules of spec/ it formalises. -/

open Sys2Proof Sys2Proof.Machine

/-! ### Encoding -/

/-- R113: the 20 legal command words, SHA2-512 being built, decode to the commands they stand for, and those commands are
encoded by them. -/
def Obligations.LegalWordsDecode : Prop :=
  ∀ p ∈ ([(0x00000000, .nop), (0x00000001, .init .sha224), (0x00000101, .init .sha256), (0x00000201, .init .ripemd160),
      (0x00000301, .init .sha512), (0x00000002, .pad), (0x00000003, .compress), (0x00000004, .hashbuf .sha224),
      (0x00000104, .hashbuf .sha256), (0x00000204, .hashbuf .ripemd160), (0x00000304, .hashbuf .sha512),
      (0x00000005, .sbegin .sha224), (0x00000105, .sbegin .sha256), (0x00000205, .sbegin .ripemd160),
      (0x00000305, .sbegin .sha512), (0x00000006, .sstep), (0x00000007, .bswap .w32), (0x00000807, .bswap .w64),
      (0x00000008, .stdig), (0x00000009, .clrerr)] : List (Word32 × Instr)),
    decode true p.1 = .ok p.2 ∧ encode p.2 = p.1

/-- R101, R102, R104, R107: decoding the word of a command gives the command back, with and without SHA2-512; a command
whose algorithm is not built gives NOT_IMPLEMENTED. -/
def Obligations.DecodeOfEncode : Prop :=
  ∀ (has : Bool) (i : Instr),
    (wellFormed has i = true → decode has (encode i) = .ok i) ∧
      (wellFormed has i = false → decode has (encode i) = .error .notImplemented)

/-- R101 to R109: a word that decodes to a command is that command's word, and the command is well formed. So no two
words decode to one command, and every bit of a legal word counts. -/
def Obligations.EncodeOfDecode : Prop :=
  ∀ (has : Bool) (c : Word32) (i : Instr), decode has c = .ok i → encode i = c ∧ wellFormed has i = true

/-- R109: the words that are illegal, by their fields as numbers; the words that raise NOT_IMPLEMENTED; the all-zero
word; and that a word let through the gate raises what decoding gives. -/
def Obligations.IllegalWords : Prop :=
  (∀ (has : Bool) (c : Word32),
    let op := c.toNat % 256
    let alg := c.toNat / 256 % 8
    let ws := c.toNat / 2048 % 4
    let rsv := c.toNat / 8192
    let starting := op = 1 ∨ op = 4 ∨ op = 5
    (decode has c = .error .illegalCommand ↔
      0x0A ≤ op ∨ rsv ≠ 0 ∨ (¬ starting ∧ alg ≠ 0) ∨ (op ≠ 7 ∧ ws ≠ 0) ∨ (starting ∧ 4 ≤ alg) ∨ (op = 7 ∧ 2 ≤ ws)) ∧
    (decode has c = .error .notImplemented ↔ starting ∧ rsv = 0 ∧ ws = 0 ∧ alg = 3 ∧ has = false) ∧
    (decode has c = .error .illegalCommand ∨ decode has c = .error .notImplemented ∨ ∃ i, decode has c = .ok i)) ∧
  (∀ has, decode has 0 = .ok .nop) ∧
  (∀ (s : State) (c : Word32), s.err = false →
    (decode s.params.hasSha512 c = .error .illegalCommand →
      commandWrite c s = .next { s with err := true, cause := 5, sact := false, pinj := false, sdone := false }) ∧
    (decode s.params.hasSha512 c = .error .notImplemented →
      commandWrite c s = .next { s with err := true, cause := 4, sact := false, pinj := false, sdone := false }))

/-! ### The machine's step, the gate and the error state -/

/-- A step whose next access writes a word to CMD is that CMD write, on the state with the access taken and no reply to
the host (the waiting accesses and the reply are the model's own fields, logs 2 and 12). When the word decodes to a
command the step is that command, in every state (R46, R107; the gate of R333 is part of the command too, log 10). -/
def Obligations.StepRunsDecodedCommand : Prop :=
  ∀ (s : State) (c : Word32) (rest : List HostAccess), s.pending = .regWrite 0 c :: rest →
    step s = commandWrite c { s with pending := rest, reply := .nothing } ∧
    ∀ i : Instr, decode s.params.hasSha512 c = .ok i → step s = exec i { s with pending := rest, reply := .nothing }

/-- R333: while ERR = 1 a word whose OP is outside the ungated set is dropped, with no effect; any other word is
decoded, and executes or raises the decoder's error. The gate tests only OP. -/
def Obligations.ErrorGate : Prop :=
  ∀ (s : State) (c : Word32),
    let op := c.toNat % 256
    let ungated := op = 0x00 ∨ op = 0x01 ∨ op = 0x04 ∨ op = 0x05 ∨ op = 0x09
    (s.err = true ∧ ¬ ungated → commandWrite c s = .next s) ∧
    (s.err = false ∨ ungated →
      (∀ i, decode s.params.hasSha512 c = .ok i → commandWrite c s = exec i s) ∧
      (∀ e, decode s.params.hasSha512 c = .error e →
        commandWrite c s = .next
          { s with err := true, cause := errorNumber e, sact := false, pinj := false, sdone := false }))

/-- R330: if a command word ends with ERR = 1, then either nothing changed (it was dropped, or it is a NOP), or the error
writes are all that changed, but for the stream requests already made (R331). -/
def Obligations.ErrorEntry : Prop :=
  ∀ (s t : State) (c : Word32), commandWrite c s = .next t → t.err = true →
    t = s ∨ ∃ e : ErrorCode, t = { s with
      err := true, cause := errorNumber e, sact := false, pinj := false, sdone := false,
      source := t.source, port := t.port }

/-- R320: the error codes. -/
def Obligations.ErrorCodes : Prop :=
  [ErrorCode.invalidLength, .streamUnreadable, .lengthRequired, .notImplemented, .illegalCommand, .addressRange,
    .sequenceError, .lengthMismatch, .lengthRange, .streamFault].map (fun e => (errorNumber e).toNat) =
  [1, 2, 3, 4, 5, 6, 7, 8, 9, 10]

/-- R295, the errors column: a command that has decoded raises only the errors of its row. -/
def Obligations.ErrorsOfCommands : Prop :=
  ∀ (i : Instr) (s t : State), s.err = false → exec i s = .next t → t.err = true →
    match i with
    | .nop => False
    | .init _ => t.cause = 4
    | .pad => t.cause = 7 ∨ t.cause = 6
    | .compress => t.cause = 7 ∨ t.cause = 6
    | .hashbuf _ => t.cause = 4 ∨ t.cause = 6
    | .sbegin _ => t.cause = 4 ∨ t.cause = 2 ∨ t.cause = 3 ∨ t.cause = 9
    | .sstep => t.cause = 7 ∨ t.cause = 10 ∨ t.cause = 8
    | .bswap _ => t.cause = 1 ∨ t.cause = 6
    | .stdig => t.cause = 7 ∨ t.cause = 6
    | .clrerr => False

/-- R324: when each command raises SEQUENCE_ERROR, whatever else is wrong with it, and that the six others never do. -/
def Obligations.SequenceErrors : Prop :=
  (∀ s : State, s.err = false →
    let t : State := { s with err := true, cause := 7, sact := false, pinj := false, sdone := false }
    (s.algv = false → exec .pad s = .next t) ∧
    (s.algv = false ∨ s.sact = true → exec .compress s = .next t) ∧
    (s.sact = false → exec .sstep s = .next t) ∧
    (s.algv = false ∨ s.sact = true → exec .stdig s = .next t)) ∧
  (∀ (i : Instr) (s t : State), s.err = false → exec i s = .next t → t.err = true → t.cause = 7 →
    i = .pad ∨ i = .compress ∨ i = .sstep ∨ i = .stdig)

/-- R326: when each command raises ADDRESS_RANGE. It does so whether or not the bytes have been written, so no byte is
read before the check. -/
def Obligations.AddressRangeErrors : Prop :=
  ∀ s : State,
    let N := s.params.mmSize
    let t : State := { s with err := true, cause := 6, sact := false, pinj := false, sdone := false }
    (s.err = false → s.algv = true →
      N < s.a0.toNat + s.a2.toNat ∨ N < s.a1.toNat + padLen s.a2.toNat s.alg → exec .pad s = .next t) ∧
    (s.err = false → s.algv = true → s.sact = false → N < s.a0.toNat + s.a2.toNat * (algParams s.alg).B →
      exec .compress s = .next t) ∧
    (∀ alg, algBuilt s.params.hasSha512 alg = true → N < s.a0.toNat + s.a2.toNat → exec (.hashbuf alg) s = .next t) ∧
    (s.err = false → s.a2.toNat % 4 = 0 → N < s.a0.toNat + s.a2.toNat → exec (.bswap .w32) s = .next t) ∧
    (s.err = false → s.a2.toNat % 8 = 0 → N < s.a0.toNat + s.a2.toNat → exec (.bswap .w64) s = .next t) ∧
    (s.err = false → s.algv = true → s.sact = false → N < s.a1.toNat + hashLengthBits s.alg / 8 →
      exec .stdig s = .next t)

/-- R325: BSWAP raises INVALID_LENGTH when A2 is no multiple of the word size, before any range check (R322), and no
other command raises it. -/
def Obligations.InvalidLengthErrors : Prop :=
  (∀ s : State, s.err = false →
    let t : State := { s with err := true, cause := 1, sact := false, pinj := false, sdone := false }
    (s.a2.toNat % 4 ≠ 0 → exec (.bswap .w32) s = .next t) ∧ (s.a2.toNat % 8 ≠ 0 → exec (.bswap .w64) s = .next t)) ∧
  (∀ (i : Instr) (s t : State), s.err = false → exec i s = .next t → t.err = true → t.cause = 1 → ∃ ws, i = .bswap ws)

/-- R327: the three stream conditions of SBEGIN, in their order, after StreamOpen has been answered. That the answer is
used up and the request recorded is the model's form of the stream port (logs 3 and 12). -/
def Obligations.SbeginErrors : Prop :=
  ∀ (alg : Alg) (s : State) (x : OpenAnswer) (rest : List OpenAnswer),
    algBuilt s.params.hasSha512 alg = true → s.source.opens = x :: rest →
    let raised (k : BitVec 4) : State :=
      { s with
        err := true, cause := k, sact := false, pinj := false, sdone := false,
        source := { s.source with opens := rest }, port := s.port ++ [.opened x] }
    (x.readable = false → exec (.sbegin alg) s = .next (raised 2)) ∧
    (x.readable = true → x.lengthKnown = false → exec (.sbegin alg) s = .next (raised 3)) ∧
    (x.readable = true → x.lengthKnown = true → 2 ^ 61 ≤ x.total.toNat → exec (.sbegin alg) s = .next (raised 9))

/-- R328: SSTEP's two stream errors. H, BCNT and everything else of KEHC but the error state stay (R174). That the answer
is used up and the request recorded is the model's form of the stream port (logs 3 and 12). Where BCNT exceeds MLEN the
bytes asked for are the model's choice (log 6), and so is the answer to more than B bytes (log 7). -/
def Obligations.SstepErrors : Prop :=
  ∀ (s : State) (x : ReadAnswer) (rest : List ReadAnswer),
    s.err = false → s.sact = true → s.source.reads = x :: rest →
    let k := min (algParams s.alg).B (s.mlen.toNat - s.bcnt.toNat)
    let raised (c : BitVec 4) : State :=
      { s with
        err := true, cause := c, sact := false, pinj := false, sdone := false,
        source := { s.source with reads := rest }, port := s.port ++ [.read k x] }
    (x = .fault → exec .sstep s = .next (raised 10)) ∧
    (∀ bs, x = .data bs → bs.length ≠ k → exec .sstep s = .next (raised 8))

/-- R321: without SHA2-512 the three words that select ALG = 3 raise NOT_IMPLEMENTED in every state, at decode, before
any other effect; and no command raises it otherwise. That the three commands, taken by themselves and not as words,
raise it too is the model's choice (log 10: the check of decode is repeated inside the command). -/
def Obligations.NotImplementedErrors : Prop :=
  (∀ s : State, s.params.hasSha512 = false →
    let t : State := { s with err := true, cause := 4, sact := false, pinj := false, sdone := false }
    (commandWrite 0x00000301 s = .next t ∧ commandWrite 0x00000304 s = .next t ∧ commandWrite 0x00000305 s = .next t) ∧
    exec (.init .sha512) s = .next t ∧ exec (.hashbuf .sha512) s = .next t ∧ exec (.sbegin .sha512) s = .next t) ∧
  (∀ (i : Instr) (s t : State), s.err = false → exec i s = .next t → t.err = true → t.cause = 4 →
    s.params.hasSha512 = false ∧ (i = .init .sha512 ∨ i = .hashbuf .sha512 ∨ i = .sbegin .sha512))

/-- R348, 93 I3 and I8: a command stops only on a byte of its source that nothing has written (the source of R326:
A2 blocks at A0 for COMPRESS, A2 bytes at A0 for PAD, HASHBUF and BSWAP), or because the stream source does not answer
(the model's faults, logs 3 and 4); and it is never refused. -/
def Obligations.CommandsStopOnlyAsStated : Prop :=
  ∀ (i : Instr) (s : State),
    (∀ r, exec i s ≠ .refused r) ∧
    (∀ f, exec i s = .fault f →
      (∃ x, f = .unwrittenByte x ∧ memByte s.mm x = none ∧ x < s.params.mmSize ∧ s.a0.toNat ≤ x ∧
        ((i = .compress ∧ x < s.a0.toNat + s.a2.toNat * (algParams s.alg).B) ∨
          ((i = .pad ∨ (∃ alg, i = .hashbuf alg) ∨ ∃ ws, i = .bswap ws) ∧ x < s.a0.toNat + s.a2.toNat))) ∨
      (f = .streamNeverAnswers ∧
        ((i = .sstep ∧ s.source.reads = []) ∨ ((∃ alg, i = .sbegin alg) ∧ s.source.opens = []))))

/-! ### What each command does -/

/-- R284: NOP has no effect in any state. -/
def Obligations.NopDoesNothing : Prop := ∀ s : State, exec .nop s = .next s

/-- R285 with R206, R207, R236, R263, R283: INIT in every state, also while ERR = 1 or SACT = 1. -/
def Obligations.InitLoadsInitialValue : Prop :=
  ∀ (s : State),
    let after (alg : Alg) (h : Bank) : State :=
      { s with
        alg := alg, algv := true, h := h, plen := 0, mlen := 0, bcnt := 0, sact := false, pinj := false, sdone := false,
        err := false, cause := 0 }
    exec (.init .sha224) s = .next (after .sha224 #v[0xc1059ed8, 0x367cd507, 0x3070dd17, 0xf70e5939, 0xffc00b31,
      0x68581511, 0x64f98fa7, 0xbefa4fa4]) ∧
    exec (.init .sha256) s = .next (after .sha256 #v[0x6a09e667, 0xbb67ae85, 0x3c6ef372, 0xa54ff53a, 0x510e527f,
      0x9b05688c, 0x1f83d9ab, 0x5be0cd19]) ∧
    exec (.init .ripemd160) s = .next (after .ripemd160 #v[0x67452301, 0xefcdab89, 0x98badcfe, 0x10325476, 0xc3d2e1f0,
      0, 0, 0]) ∧
    (s.params.hasSha512 = true →
      exec (.init .sha512) s = .next (after .sha512 #v[0x6a09e667f3bcc908, 0xbb67ae8584caa73b, 0x3c6ef372fe94f82b,
        0xa54ff53a5f1d36f1, 0x510e527fade682d1, 0x9b05688c2b3e6c1f, 0x1f83d9abfb41bd6b, 0x5be0cd19137e2179]))

/-- R290: CLRERR clears ERR and CAUSE in every state and changes nothing else; the cursor is not restored. -/
def Obligations.ClrerrClearsError : Prop := ∀ s : State, exec .clrerr s = .next { s with err := false, cause := 0 }

/-- R151, R153, R155, R89: PAD writes the message, 0x80, zeros and the footer to the n bytes at A1, where n is the
multiple of B that just fits, and PLEN; every other byte of MM and every other register stays. The message is what the
source range held before, also where the two ranges overlap. -/
def Obligations.PadResult : Prop :=
  ∀ (s : State) (msg : List Byte) (n : Nat),
    let B := (algParams s.alg).B
    let F := (algParams s.alg).F
    let L := s.a2.toNat
    let d := s.a1.toNat
    s.err = false → s.algv = true → msg.length = L → holdsBytes s s.a0.toNat msg → s.a0.toNat + L ≤ s.params.mmSize →
    B ∣ n → L + 1 + F ≤ n → n < L + 1 + F + B → d + n ≤ s.params.mmSize →
    ∃ t, exec .pad s = .next t ∧
      t = { s with mm := t.mm, plen := BitVec.ofNat 64 n } ∧
      holdsBytes t d msg ∧
      memByte t.mm (d + L) = some 0x80 ∧
      (∀ i, L < i → i < n - F → memByte t.mm (d + i) = some 0) ∧
      (∀ j, j < F → memByte t.mm (d + (n - F) + j) = some (BitVec.ofNat 8
        (8 * L / 256 ^ (if (algParams s.alg).lenEnd = .be then F - 1 - j else j)))) ∧
      (∀ x, x < d ∨ d + n ≤ x → memByte t.mm x = memByte s.mm x)

/-- R287: COMPRESS folds the A2 blocks at A0 into H, in address order, and changes nothing else. With A2 = 0 it leaves H
unchanged. -/
def Obligations.CompressResult : Prop :=
  ∀ (s : State) (data : List Byte),
    let B := (algParams s.alg).B
    s.err = false → s.algv = true → s.sact = false → data.length = s.a2.toNat * B → holdsBytes s s.a0.toNat data →
    s.a0.toNat + s.a2.toNat * B ≤ s.params.mmSize →
    exec .compress s = .next { s with
      h := (List.range s.a2.toNat).foldl (fun h j => processBlock s.alg h ((data.drop (j * B)).take B)) s.h }

/-- R287: compressing m + k blocks is compressing m blocks and then the k blocks that follow them. -/
def Obligations.CompressInTwoParts : Prop :=
  ∀ (s t u : State) (m k : Nat),
    let B := (algParams s.alg).B
    s.err = false → s.algv = true → s.sact = false → s.params.wf → s.a2.toNat = m + k →
    s.a0.toNat + (m + k) * B ≤ s.params.mmSize →
    exec .compress { s with a2 := BitVec.ofNat 32 m } = .next t →
    exec .compress { t with a0 := BitVec.ofNat 32 (s.a0.toNat + m * B), a2 := BitVec.ofNat 32 k } = .next u →
    exec .compress s = .next { s with h := u.h }

/-- R288: HASHBUF in every state, also while ERR = 1 or SACT = 1: INIT_EFFECTS, then H is the padded message folded block
by block into the initial value, and PLEN its length. MM is not written. -/
def Obligations.HashbufResult : Prop :=
  ∀ (alg : Alg) (s : State) (msg : List Byte),
    let B := (algParams alg).B
    algBuilt s.params.hasSha512 alg = true → msg.length = s.a2.toNat → holdsBytes s s.a0.toNat msg →
    s.a0.toNat + s.a2.toNat ≤ s.params.mmSize →
    exec (.hashbuf alg) s = .next { s with
      alg := alg, algv := true, mlen := 0, bcnt := 0, sact := false, pinj := false, sdone := false, err := false,
      cause := 0, plen := BitVec.ofNat 64 (pad msg alg).length,
      h := (List.range ((pad msg alg).length / B)).foldl
        (fun h j => processBlock alg h (((pad msg alg).drop (j * B)).take B)) (initialState alg) }

/-- R291: INIT, then PAD, then COMPRESS over the padded copy with A2 = PLEN / B leaves the same H as HASHBUF. -/
def Obligations.BufferPathInSteps : Prop :=
  ∀ (alg : Alg) (s : State) (msg : List Byte),
    algBuilt s.params.hasSha512 alg = true → s.params.wf → msg.length = s.a2.toNat → holdsBytes s s.a0.toNat msg →
    s.a0.toNat + s.a2.toNat ≤ s.params.mmSize → s.a1.toNat + padLen s.a2.toNat alg ≤ s.params.mmSize →
    ∃ t u v w, exec (.init alg) s = .next t ∧ exec .pad t = .next u ∧
      exec .compress { u with a0 := s.a1, a2 := BitVec.ofNat 32 (u.plen.toNat / (algParams alg).B) } = .next v ∧
      exec (.hashbuf alg) s = .next w ∧ v.h = w.h ∧ v.err = false ∧ w.err = false

/-- R172: SBEGIN in every state, also while ERR = 1 or another stream is open, when the source is readable and its total
is known and below 2^61. The answer used up and the request recorded are the model's form of the port (logs 3, 12). -/
def Obligations.SbeginOpens : Prop :=
  ∀ (alg : Alg) (s : State) (x : OpenAnswer) (rest : List OpenAnswer),
    algBuilt s.params.hasSha512 alg = true → s.source.opens = x :: rest → x.readable = true → x.lengthKnown = true →
    x.total.toNat < 2 ^ 61 →
    exec (.sbegin alg) s = .next { s with
      alg := alg, algv := true, h := initialState alg, plen := 0, mlen := x.total, bcnt := 0, sact := true,
      pinj := false, sdone := false, err := false, cause := 0, source := { s.source with opens := rest },
      port := s.port ++ [.opened x] }

/-- R173 to R181: the four rows of the reader's transition table, with the buffer that is compressed in each and
everything the iteration writes. The answer used up and the request recorded are the model's form of the port (logs 3
and 12). -/
def Obligations.SstepTransitions : Prop :=
  ∀ (s : State) (bs : List Byte) (rest : List ReadAnswer),
    let B := (algParams s.alg).B
    let F := (algParams s.alg).F
    let r := s.mlen.toNat - s.bcnt.toNat
    let footer := lenField s.mlen.toNat s.alg
    s.err = false → s.sact = true → s.bcnt.toNat ≤ s.mlen.toNat → s.source.reads = .data bs :: rest →
    bs.length = min B r →
    let after (buf : List Byte) (pinj sdone sact : Bool) : State :=
      { s with
        h := processBlock s.alg s.h buf, bcnt := s.bcnt + BitVec.ofNat 64 bs.length, pinj := pinj, sdone := sdone,
        sact := sact, source := { s.source with reads := rest }, port := s.port ++ [.read (min B r) (.data bs)] }
    (s.pinj = false → B ≤ r → exec .sstep s = .next (after bs false s.sdone true)) ∧
    (s.pinj = false → r + 1 + F ≤ B →
      exec .sstep s = .next (after (bs ++ [0x80] ++ zeros (B - F - (r + 1)) ++ footer) true true false)) ∧
    (s.pinj = false → B - F ≤ r → r < B →
      exec .sstep s = .next (after (bs ++ [0x80] ++ zeros (B - (r + 1))) true s.sdone true)) ∧
    (s.pinj = true → r = 0 → exec .sstep s = .next (after (zeros (B - F) ++ footer) true true false))

/-- R182: the buffer of iteration i of a message's stream hash is block i of the padded message. PINJ is 1 before
iteration i exactly when an earlier iteration read less than a block. -/
def Obligations.StreamBuffersAreBlocks : Prop :=
  ∀ (alg : Alg) (msg : List Byte) (i : Nat),
    let B := (algParams alg).B
    i < (pad msg alg).length / B →
    streamBuffer alg msg.length (decide (msg.length < i * B)) ((msg.drop (i * B)).take B) =
      ((pad msg alg).drop (i * B)).take B

/-- R183, R170, R181: from any state, SBEGIN and then padLen(N)/B SSTEPs on a source that delivers the message, and no
fewer, end with SDONE = 1, and leave the H, and so the digest, that HASHBUF leaves of the same message held in MM. -/
def Obligations.CrossPathEquivalence : Prop :=
  ∀ (alg : Alg) (msg : List Byte) (s : State) (x : OpenAnswer) (restO : List OpenAnswer) (restR : List ReadAnswer),
    algBuilt s.params.hasSha512 alg = true → x.readable = true → x.lengthKnown = true → x.total.toNat = msg.length →
    msg.length < 2 ^ 61 → s.source.opens = x :: restO → s.source.reads = conformingReads alg msg ++ restR →
    ∃ t u, exec (.sbegin alg) s = .next t ∧ runSteps (padLen msg.length alg / (algParams alg).B) t = .next u ∧
      u.sdone = true ∧ u.sact = false ∧ u.err = false ∧ u.alg = alg ∧
      (∀ k, k < padLen msg.length alg / (algParams alg).B →
        ∃ v, runSteps k t = .next v ∧ v.sdone = false ∧ v.err = false) ∧
      (∀ b c, algBuilt b.params.hasSha512 alg = true → msg.length = b.a2.toNat → holdsBytes b b.a0.toNat msg →
        exec (.hashbuf alg) b = .next c → c.err = false → c.h = u.h ∧ digest c.alg c.h = digest u.alg u.h)

/-- R185, R324: once SDONE = 1 and SACT = 0 an SSTEP raises SEQUENCE_ERROR and makes no stream request. -/
def Obligations.DoneStreamStaysDone : Prop :=
  ∀ s : State, Inv s → s.sdone = true →
    ∃ t, exec .sstep s = .next t ∧ t.cause = 7 ∧ t.err = true ∧ t.source = s.source ∧ t.port = s.port ∧ t.h = s.h

/-- R135, R133: BSWAP reverses the bytes within each word of MM[A0, A0 + A2) and changes no other byte and no register. -/
def Obligations.BswapResult : Prop :=
  ∀ (ws : WordSize) (s : State) (bs : List Byte),
    let w := match ws with
      | .w32 => 4
      | .w64 => 8
    s.err = false → bs.length = s.a2.toNat → holdsBytes s s.a0.toNat bs → s.a2.toNat % w = 0 →
    s.a0.toNat + s.a2.toNat ≤ s.params.mmSize →
    ∃ t, exec (.bswap ws) s = .next t ∧ t = { s with mm := t.mm } ∧
      (∀ g j, j < w → g * w + j < s.a2.toNat →
        memByte t.mm (s.a0.toNat + (g * w + j)) = memByte s.mm (s.a0.toNat + (g * w + (w - 1 - j)))) ∧
      (∀ x, x < s.a0.toNat ∨ s.a0.toNat + s.a2.toNat ≤ x → memByte t.mm x = memByte s.mm x)

/-- R135, R133: two BSWAPs of the same range and word size restore the state. -/
def Obligations.BswapTwiceRestores : Prop :=
  ∀ (ws : WordSize) (s t : State), Memory.wf s.mm → s.err = false → exec (.bswap ws) s = .next t → t.err = false →
    exec (.bswap ws) t = .next s

/-- R289, R282, R280: STDIG stores nb bytes at A1: byte j of digest word i is that byte of state word i, in the
algorithm's digest order. Every other byte of MM and every register stays. -/
def Obligations.StdigResult : Prop :=
  ∀ s : State,
    let W := (algParams s.alg).W
    let d := s.a1.toNat
    let nb := hashLengthBits s.alg / 8
    s.err = false → s.algv = true → s.sact = false → d + nb ≤ s.params.mmSize →
    ∃ t, exec .stdig s = .next t ∧ t = { s with mm := t.mm } ∧
      (∀ i j, i < (algParams s.alg).nd → j < W →
        memByte t.mm (d + (i * W + j)) = some (BitVec.ofNat 8 ((bankReg s.h i).toNat % 256 ^ W /
          256 ^ (if (algParams s.alg).digEnd = .be then W - 1 - j else j)))) ∧
      (∀ x, x < d ∨ d + nb ≤ x → memByte t.mm x = memByte s.mm x)

/-! ### The units behind the commands -/

/-- R132: the laws of the conversion functions. -/
def Obligations.ConversionLaws : Prop :=
  ∀ (W : Nat) (e : Endian), W = 4 ∨ W = 8 →
    (∀ bs : List Byte, bs.length % W = 0 → wordsToBytes W e (bytesToWords W e bs) = bs) ∧
    (∀ ws : List (BitVec (8 * W)), bytesToWords W e (wordsToBytes W e ws) = ws) ∧
    (∀ bs : List Byte, bs.length % W = 0 → bytesToWords W .be bs = bytesToWords W .le (swapBytes W bs))

/-- R133: the datapath of the swap unit, and that it is an involution. -/
def Obligations.SwapReversesWords : Prop :=
  ∀ (W : Nat) (bs : List Byte), W = 4 ∨ W = 8 → bs.length % W = 0 →
    (swapBytes W bs).length = bs.length ∧
    (∀ g j, j < W → g * W + j < bs.length → (swapBytes W bs)[g * W + j]? = bs[g * W + (W - 1 - j)]?) ∧
    swapBytes W (swapBytes W bs) = bs

/-- R151: padLen is newLen + F for the smallest newLen of the source's step 1, and its two closed forms. -/
def Obligations.PadLenIsLeast : Prop :=
  ∀ (alg : Alg) (L : Nat),
    let B := (algParams alg).B
    let F := (algParams alg).F
    (∃ newLen, padLen L alg = newLen + F ∧ L + 1 ≤ newLen ∧ newLen % B = (B - F) % B ∧
      ∀ m, L + 1 ≤ m → m % B = (B - F) % B → newLen ≤ m) ∧
    padLen L alg = B * ((L + 1 + F) ⌈/⌉ B) ∧
    (alg ≠ .sha512 → padLen L alg = 64 * ((L + 8) / 64 + 1) ∧ (L ≤ 55 → padLen L alg = 64) ∧
      (56 ≤ L → L ≤ 119 → padLen L alg = 128))

/-- R154: the properties of pad. -/
def Obligations.PadProperties : Prop :=
  ∀ (alg : Alg) (msg : List Byte),
    let B := (algParams alg).B
    let F := (algParams alg).F
    let L := msg.length
    let n := padLen L alg
    ((pad msg alg).length = n ∧ B ∣ n) ∧
    (pad msg alg).take L = msg ∧
    ((pad msg alg)[L]? = some 0x80 ∧ ∀ i, L < i → i < n - F → (pad msg alg)[i]? = some 0) ∧
    (L + 1 + F ≤ n ∧ ∀ m, B ∣ m → L + 1 + F ≤ m → n ≤ m) ∧
    ((1 ≤ L → n / B = L ⌈/⌉ B ∨ n / B = L ⌈/⌉ B + 1) ∧ padLen 0 alg = B)

/-- R156: the last F bytes of the padded message are the message's exact length in bits, for every message below 2^61
bytes, which A2 and MLEN < 2^61 always are. -/
def Obligations.FooterIsBitLength : Prop :=
  ∀ (alg : Alg) (msg : List Byte), msg.length < 2 ^ 61 →
    bytesValue (algParams alg).lenEnd ((pad msg alg).drop ((pad msg alg).length - (algParams alg).F)) = 8 * msg.length

/-- R205 and R264: the message schedules are their block words, then the recurrence. -/
def Obligations.ScheduleRecurrence : Prop :=
  (∀ X : List Word32, X.length = 16 →
    let w := schedule256 X
    w.length = 64 ∧ (∀ t, t < 16 → w[t]? = X[t]?) ∧
    ∀ t, 16 ≤ t → t < 64 → w.getD t 0 =
      smallSigma1W32 (w.getD (t - 2) 0) + w.getD (t - 7) 0 + smallSigma0W32 (w.getD (t - 15) 0) + w.getD (t - 16) 0) ∧
  (∀ X : List Word64, X.length = 16 →
    let w := schedule512 X
    w.length = 80 ∧ (∀ t, t < 16 → w[t]? = X[t]?) ∧
    ∀ t, 16 ≤ t → t < 80 → w.getD t 0 =
      smallSigma1W64 (w.getD (t - 2) 0) + w.getD (t - 7) 0 + smallSigma0W64 (w.getD (t - 15) 0) + w.getD (t - 16) 0)

/-- R33, R212, R239: a block's update leaves the registers past nH alone, clears the high halves of the others under a
32-bit algorithm, and does not depend on what those high halves held. -/
def Obligations.ProcessBlockAndHighHalves : Prop :=
  ∀ (alg : Alg) (h : Bank) (block : List Byte),
    (∀ i, (algParams alg).nH ≤ i → i < 8 → bankReg (processBlock alg h block) i = bankReg h i) ∧
    (alg ≠ .sha512 →
      (∀ i, i < (algParams alg).nH → (bankReg (processBlock alg h block) i).toNat < 2 ^ 32) ∧
      ∀ k : Bank, (∀ i, i < (algParams alg).nH → lowHalf (bankReg h i) = lowHalf (bankReg k i)) →
        ∀ i, i < (algParams alg).nH → bankReg (processBlock alg h block) i = bankReg (processBlock alg k block) i)

/-- R294, R280: every digest has exactly hashLengthBits / 8 bytes. -/
def Obligations.DigestLength : Prop :=
  ∀ (alg : Alg) (h : Bank), (digest alg h).length = hashLengthBits alg / 8 ∧
    hashLengthBits alg = match alg with
      | .sha224 => 224
      | .sha256 => 256
      | .ripemd160 => 160
      | .sha512 => 512

/-! ### The register space and the host port -/

/-- R42 to R46, R48, R49, R56, R57: what a read of each offset returns. -/
def Obligations.RegisterReads : Prop :=
  ∀ s : State, s.params.wf →
    (regRead s 0x000 = 0 ∧
      (regRead s 0x004).toNat = s.err.toNat + 2 * s.algv.toNat + 4 * s.sact.toNat + 8 * s.pinj.toNat +
        16 * s.sdone.toNat + 32 * (algCode s.alg).toNat ∧
      (regRead s 0x008).toNat = s.cause.toNat ∧ (regRead s 0x00C).toNat = 1 + 256 * s.params.hasSha512.toNat ∧
      (regRead s 0x010).toNat = s.params.mmSize ∧ regRead s 0x020 = s.a0 ∧ regRead s 0x024 = s.a1 ∧
      regRead s 0x028 = s.a2) ∧
    (regRead s 0x034 ++ regRead s 0x030 = s.plen ∧ regRead s 0x03C ++ regRead s 0x038 = s.mlen ∧
      regRead s 0x044 ++ regRead s 0x040 = s.bcnt) ∧
    (∀ i, i < 8 → regRead s (0x084 + 8 * i) ++ regRead s (0x080 + 8 * i) = bankReg s.h i) ∧
    (∀ o, validOffset o = true →
      o = 0x014 ∨ o = 0x018 ∨ o = 0x01C ∨ o = 0x02C ∨ (0x048 ≤ o ∧ o ≤ 0x07C) ∨ 0x100 ≤ o → regRead s o = 0)

/-- R34, R49, R57: what a write to each offset but CMD does, as a step of the machine. -/
def Obligations.RegisterWrites : Prop :=
  ∀ (s : State) (o : Nat) (v : Word32) (rest : List HostAccess), s.pending = .regWrite o v :: rest →
    validOffset o = true → o ≠ 0 →
    let t : State := { s with pending := rest, reply := .nothing }
    (o = 0x020 → step s = .next { t with a0 := v }) ∧
    (o = 0x024 → step s = .next { t with a1 := v }) ∧
    (o = 0x028 → step s = .next { t with a2 := v }) ∧
    (∀ i, i < 8 → o = 0x080 + 8 * i → ∃ u, step s = .next u ∧ u = { t with h := u.h } ∧
      lowHalf (bankReg u.h i) = v ∧ highHalf (bankReg u.h i) = highHalf (bankReg s.h i) ∧
      ∀ k, k < 8 → k ≠ i → bankReg u.h k = bankReg s.h k) ∧
    (∀ i, i < 8 → o = 0x084 + 8 * i → ∃ u, step s = .next u ∧ u = { t with h := u.h } ∧
      highHalf (bankReg u.h i) = v ∧ lowHalf (bankReg u.h i) = lowHalf (bankReg s.h i) ∧
      ∀ k, k < 8 → k ≠ i → bankReg u.h k = bankReg s.h k) ∧
    (o < 0x020 ∨ o = 0x02C ∨ (0x030 ≤ o ∧ o < 0x080) ∨ 0x0C0 ≤ o → step s = .next t)

/-- R47: the DIGEST window shows zero while an error is pending, no algorithm is selected or a stream is in progress;
otherwise the bytes of the digest, four to a word with the first in the low bits, and zeros past the digest. -/
def Obligations.DigestWindow : Prop :=
  ∀ (s : State) (k : Nat), k < 16 →
    (s.err = true ∨ s.algv = false ∨ s.sact = true → regRead s (0x0C0 + 4 * k) = 0) ∧
    (digestDefined s →
      (regRead s (0x0C0 + 4 * k)).toNat = leValue ((digest s.alg s.h ++ zeros 64).drop (4 * k) |>.take 4))

/-- R76 (d), R75, R72: a read by the host changes nothing but its own reply. -/
def Obligations.ReadsHaveNoEffect : Prop :=
  ∀ (s : State) (rest : List HostAccess),
    (∀ o, s.pending = .regRead o :: rest → validOffset o = true →
      step s = .next { s with pending := rest, reply := .reg (regRead s o) }) ∧
    (∀ a bs, s.pending = .mmRead a bs.length :: rest → a + bs.length ≤ s.params.mmSize → holdsBytes s a bs →
      step s = .next { s with pending := rest, reply := .bytes bs })

/-- R72, R79: bytes written through the host port are read back through it, and every other byte stays. -/
def Obligations.HostPortReadAfterWrite : Prop :=
  ∀ (s : State) (a : Nat) (bs : List Byte) (rest : List HostAccess),
    s.pending = .mmWrite a bs :: .mmRead a bs.length :: rest → a + bs.length ≤ s.params.mmSize →
    ∃ t u, step s = .next t ∧ t = { s with mm := t.mm, pending := .mmRead a bs.length :: rest, reply := .nothing } ∧
      (∀ x, x < a ∨ a + bs.length ≤ x → memByte t.mm x = memByte s.mm x) ∧
      step t = .next u ∧ u.reply = .bytes bs ∧ u.mm = t.mm

/-- R72, R75, R361 with 93 I4, I5, I6, I9: the accesses outside the spec are refused by name, which is the model's form of
'refuse' (log 14). -/
def Obligations.OutsideAccessesRefused : Prop :=
  ∀ (s : State) (rest : List HostAccess),
    (∀ o v, s.pending = .regWrite o v :: rest → o % 4 ≠ 0 ∨ 0xFFC < o → step s = .refused (.registerAccess o 32)) ∧
    (∀ o, s.pending = .regRead o :: rest → o % 4 ≠ 0 ∨ 0xFFC < o → step s = .refused (.registerAccess o 32)) ∧
    (∀ o w, s.pending = .regOther o w :: rest → step s = .refused (.registerAccess o w)) ∧
    (∀ a n, s.pending = .mmRead a n :: rest → s.params.mmSize < a + n → step s = .refused (.hostPortRange a n)) ∧
    (∀ a bs, s.pending = .mmWrite a bs :: rest → s.params.mmSize < a + bs.length →
      step s = .refused (.hostPortRange a bs.length)) ∧
    (s.pending = .resetDuringCommand :: rest → step s = .refused .resetDuringCommand) ∧
    (s.pending = .sharedSource :: rest → step s = .refused .sharedStreamSource)

/-! ### Reset and invariants -/

/-- R58: the reset values, for every choice of the parameters: the registers, ID and MMSIZE, and, by the model's
choice (logs 4 and 5), no byte of MM known. -/
def Obligations.ResetValues : Prop :=
  ∀ p : Params, p.wf →
    let s := State.resetWith p
    (∀ i, i < 8 → bankReg s.h i = 0) ∧ algCode s.alg = 0 ∧ s.algv = false ∧ s.a0 = 0 ∧ s.a1 = 0 ∧ s.a2 = 0 ∧
    s.plen = 0 ∧ s.mlen = 0 ∧ s.bcnt = 0 ∧ s.sact = false ∧ s.pinj = false ∧ s.sdone = false ∧ s.err = false ∧
    s.cause = 0 ∧ (regRead s 0x00C).toNat = 1 + 256 * p.hasSha512.toNat ∧ (regRead s 0x010).toNat = p.mmSize ∧
    (∀ k, k < 16 → regRead s (0x0C0 + 4 * k) = 0) ∧ ∀ a, memByte s.mm a = none

/-- R360, R362: reset as a step, from any state: the reset values, the constants and the stream source as they were, and
no request on the stream port. MM is unspecified again (log 5, the model's choice: no byte is known). -/
def Obligations.ResetStep : Prop :=
  ∀ (s : State) (rest : List HostAccess), s.pending = .reset :: rest →
    step s = .next { State.resetWith s.params with
      source := s.source, port := s.port, pending := rest, reply := .nothing }

/-- R52: the invariants hold right after reset, whatever the parameters. -/
def Obligations.InvariantAtReset : Prop := ∀ p : Params, Inv (State.resetWith p)

/-- R52 (a) to (e): every step, from every state that satisfies the invariants, leaves a state that satisfies them. -/
def Obligations.StepKeepsInvariant : Prop := ∀ s t : State, Inv s → step s = .next t → Inv t

/-- R52 (f), R33: under a 32-bit algorithm the high halves of the state words stay zero through every step but a host
write to H; and they are zero at reset. -/
def Obligations.StepKeepsHighHalvesClear : Prop :=
  (∀ p : Params, HighHalvesClear (State.resetWith p)) ∧
  ∀ s t : State, HighHalvesClear s → (∀ a rest, s.pending = a :: rest → writesBank a = false) → step s = .next t →
    HighHalvesClear t

/-- R44, R45, R362: the parameters, and so ID and MMSIZE, never change. -/
def Obligations.ParametersNeverChange : Prop :=
  ∀ s t : State, step s = .next t →
    t.params = s.params ∧ regRead t 0x00C = regRead s 0x00C ∧ regRead t 0x010 = regRead s 0x010

/-- R33, R35 to R40, R53, R295: what each command may write. The operand registers, the parameters and the host's side
are written by none. -/
def Obligations.CommandsWriteOnly : Prop :=
  ∀ (i : Instr) (s t : State), exec i s = .next t →
    (t.a0 = s.a0 ∧ t.a1 = s.a1 ∧ t.a2 = s.a2 ∧ t.params = s.params ∧ t.pending = s.pending ∧ t.reply = s.reply) ∧
    (isStarting i = false → t.alg = s.alg ∧ t.algv = s.algv ∧ t.mlen = s.mlen) ∧
    (isStarting i = false → i ≠ .compress → i ≠ .sstep → t.h = s.h) ∧
    (isStarting i = false → i ≠ .pad → t.plen = s.plen) ∧
    (isStarting i = false → i ≠ .sstep → t.bcnt = s.bcnt) ∧
    (i ≠ .pad → i ≠ .stdig → (∀ ws, i ≠ .bswap ws) → t.mm = s.mm) ∧
    (i ≠ .sstep → (∀ alg, i ≠ .sbegin alg) → t.source = s.source ∧ t.port = s.port)

/-- R53: which commands can set or clear each flag. A command has raised an error when it ends with ERR = 1 and either
began with ERR = 0 or is a starting command (R333, R335). SACT is cleared by INIT, HASHBUF, an SSTEP that ends the
stream, and every error; PINJ and SDONE by the starting commands and every error (R330). ALGV is never cleared. -/
def Obligations.FlagWriters : Prop :=
  ∀ (i : Instr) (s t : State), exec i s = .next t →
    let raised := t.err = true ∧ (s.err = false ∨ isStarting i = true)
    (s.err = true → t.err = false → isStarting i = true ∨ i = .clrerr) ∧
    (t.algv ≠ s.algv → isStarting i = true ∧ t.algv = true ∧ t.err = false) ∧
    (s.sact = false → t.sact = true → ∃ alg, i = .sbegin alg) ∧
    (s.pinj = false → t.pinj = true → i = .sstep) ∧
    (s.sdone = false → t.sdone = true → i = .sstep ∧ t.sact = false) ∧
    (s.sact = true → t.sact = false →
      (∃ alg, i = .init alg ∨ i = .hashbuf alg) ∨ (i = .sstep ∧ t.sdone = true) ∨ raised) ∧
    (s.pinj = true → t.pinj = false → isStarting i = true ∨ raised) ∧
    (s.sdone = true → t.sdone = false → isStarting i = true ∨ raised) ∧
    (raised → i ≠ .nop ∧ i ≠ .clrerr ∧ t.sact = false ∧ t.pinj = false ∧ t.sdone = false)

/-- R345: a step of one instance leaves every other instance as it was, and the instance stepped does what it does
alone. That a system is a list of instance states, and its step one step of one of them, is the model's form of R13 and
R345 (log 16). -/
def Obligations.InstancesDoNotInteract : Prop :=
  ∀ (sys : System) (k : Nat) (s : State), sys.engines[k]? = some s →
    (∀ sys', systemStep k sys = .next sys' →
      (∃ t, step s = .next t ∧ sys'.engines[k]? = some t) ∧ sys'.engines.length = sys.engines.length ∧
      ∀ j, j ≠ k → sys'.engines[j]? = sys.engines[j]?) ∧
    (∀ t, step s = .next t → ∃ sys', systemStep k sys = .next sys')

/-- R13, R345, R10: a system reset from at least one set of parameters, each within R10's bounds, has one instance for
each, all in the reset state; and a system step keeps N_ENGINES, its bound N_ENGINES ≥ 1 and R10's bounds. That a system
is a list of instance states, with the bounds in a predicate on it, is the model's form of these rules (log 16). -/
def Obligations.SystemHasInstances : Prop :=
  (∀ ps : List Params, 1 ≤ ps.length → (∀ p ∈ ps, p.wf) →
    (System.reset ps).wf ∧ (System.reset ps).nEngines = ps.length ∧
    ∀ (k : Nat) (p : Params), ps[k]? = some p → (System.reset ps).engines[k]? = some (State.resetWith p)) ∧
  (∀ (sys sys' : System) (k : Nat), sys.wf → systemStep k sys = .next sys' →
    sys'.wf ∧ sys'.nEngines = sys.nEngines)
end

