-- ==== Sys2Proof/Laws/Count.lean ====
section
/-! SUPPORT. The number of blocks that COMPRESS and HASHBUF fold into the bank is the one R382 gives. -/

namespace Sys2Proof.Machine

theorem blockCount_compress {s : State} {data : List Byte}
    (h : memRead s.mm (srcAddr s) (compressBytes s) = .ok data) :
    (groups (algParams s.alg).B data).length = blockCount .compress s := by
  rw [groups_length, memRead_length h]
  exact Nat.mul_div_cancel _ (blockSize_pos _)

theorem blockCount_hashbuf {alg : Alg} {s : State} {msg : List Byte}
    (h : memRead s.mm (srcAddr s) (lenArg s) = .ok msg) :
    (groups (algParams alg).B (pad msg alg)).length = blockCount (.hashbuf alg) s := by
  rw [groups_length, pad_length, memRead_length h]
  rfl

end Sys2Proof.Machine
end

