-- ==== Sys2Proof/Tests/Slice0.lean ====
section
/-! SUPPORT. The model's own tests: the checks on ill-formed commands, decoding of words written out from the encoding
tables, single steps against the vectors of spec/95_test_vectors.md, and for each obligation with hypotheses a state and
operands that meet them. -/

namespace Sys2Proof.Tests

open Sys2Proof Sys2Proof.Machine

/-! ### Helpers -/

/-- The state that an outcome goes on with. -/
def after (r : Result) : Option State :=
  match r with
  | .next s => some s
  | .fault _ | .refused _ => none

/-- One field of the state after a command. -/
def got {α : Type} (f : State → α) (r : Result) : Option α := (after r).map f

/-- The fault of an outcome. -/
def faultOf (r : Result) : Option Fault :=
  match r with
  | .fault f => some f
  | .next _ | .refused _ => none

/-- The refusal of an outcome. -/
def refusalOf (r : Result) : Option Refusal :=
  match r with
  | .refused f => some f
  | .next _ | .fault _ => none

/-- The reset state with bytes of MM written from an address on, and the operand registers set. -/
def at' (addr : Nat) (bs : List Byte) (a0 a1 a2 : Word32) : State :=
  { State.reset with mm := memWrite [] addr bs, a0 := a0, a1 := a1, a2 := a2 }

/-- The same after INIT of an algorithm. -/
def inited (alg : Alg) (s : State) : State := initEffects alg s

/-- The same with a stream of a declared length open, some of it read. -/
def streaming (alg : Alg) (total read : Word64) (pinj : Bool) (answers : List ReadAnswer) : State :=
  { initEffects alg State.reset with
    mlen := total, bcnt := read, sact := true, pinj := pinj, source := { opens := [], reads := answers } }

/-- The reset state with a source that answers StreamOpen once. -/
def offered (answer : OpenAnswer) : State := { State.reset with source := { opens := [answer], reads := [] } }

/-- The reset state with one host access waiting. -/
def waiting (a : HostAccess) : State := { State.reset with pending := [a] }

/-- A state with an error pending. -/
def failed : State := { State.reset with err := true, cause := 7 }

/-- The reset state of a build without SHA2-512. -/
def plain : State := State.resetWith { Config.defaultParams with hasSha512 := false }

/-- The message "abc". -/
def abc : List Byte := [0x61, 0x62, 0x63]

/-- The bytes 01 to 08 of V21 and V22. -/
def bs8 : List Byte := [1, 2, 3, 4, 5, 6, 7, 8]

/-! ### Ill-formed commands (30_encoding R104, R107; 60_exceptions R321) -/

theorem test_ill_formed_init : wellFormed false (.init .sha512) = false := by decide
theorem test_ill_formed_hashbuf : wellFormed false (.hashbuf .sha512) = false := by decide
theorem test_ill_formed_sbegin : wellFormed false (.sbegin .sha512) = false := by decide
theorem test_well_formed_sha512 : wellFormed true (.init .sha512) = true := by decide
theorem test_well_formed_nop : wellFormed false .nop = true := by decide

/-! ### Decoding: RSV, WS, ALG and OP written out bit by bit (30_encoding R101, R102, R104, R105) -/

/-- The command a word decodes to. -/
def decoded (has : Bool) (w : Word32) : Option Instr :=
  match decode has w with
  | .ok i => some i
  | .error _ => none

/-- The error a word raises at decode. -/
def decodeError (has : Bool) (w : Word32) : Option ErrorCode :=
  match decode has w with
  | .ok _ => none
  | .error e => some e

theorem test_decode_nop : decoded true 0b0000000000000000000_00_000_00000000#32 = some .nop := by decide
theorem test_decode_init_ripemd160 :
    decoded true 0b0000000000000000000_00_010_00000001#32 = some (.init .ripemd160) := by decide
theorem test_decode_pad : decoded true 0b0000000000000000000_00_000_00000010#32 = some .pad := by decide
theorem test_decode_compress : decoded true 0b0000000000000000000_00_000_00000011#32 = some .compress := by decide
theorem test_decode_hashbuf_sha512 :
    decoded true 0b0000000000000000000_00_011_00000100#32 = some (.hashbuf .sha512) := by decide
theorem test_decode_sbegin_sha256 :
    decoded true 0b0000000000000000000_00_001_00000101#32 = some (.sbegin .sha256) := by decide
theorem test_decode_sstep : decoded true 0b0000000000000000000_00_000_00000110#32 = some .sstep := by decide
theorem test_decode_bswap_w64 : decoded true 0b0000000000000000000_01_000_00000111#32 = some (.bswap .w64) := by decide
theorem test_decode_stdig : decoded true 0b0000000000000000000_00_000_00001000#32 = some .stdig := by decide
theorem test_decode_clrerr : decoded true 0b0000000000000000000_00_000_00001001#32 = some .clrerr := by decide

/-- V20e to V20g: ILLEGAL_COMMAND before NOT_IMPLEMENTED. -/
theorem test_decode_order :
    (decodeError false 0x00000301, decodeError false 0x00000401, decodeError false 0x00002301) =
      (some .notImplemented, some .illegalCommand, some .illegalCommand) := by decide

/-- V20h to V20l, V20o to V20t and V20v. -/
theorem test_decode_illegal :
    ([0x801, 0x2001, 0x100, 0x800, 0x802, 0x1007, 0x1807, 0x107, 0x0A, 0xFF, 0x80000000, 0x109] : List Word32).map
      (decodeError true) = List.replicate 12 (some .illegalCommand) := by decide

/-- R113: the encoder's words. -/
theorem test_encode :
    (encode (.init .sha512), encode (.hashbuf .ripemd160), encode (.sbegin .sha256), encode (.bswap .w64)) =
      (0x00000301, 0x00000204, 0x00000105, 0x00000807) := by decide

theorem test_decode_table_word : decodeTableWord 32 0x00000305 = some (.sbegin .sha512) := by decide

/-! ### Single steps -/

/-- V33c: NOP runs while ERR = 1 and leaves the error. -/
theorem test_nop_keeps_error : got (fun s => (s.err, s.cause)) (exec .nop failed) = some (true, 7) := by decide

/-- V32a: INIT ripemd160. -/
theorem test_init_ripemd160 :
    got (fun s => (statusWord s, s.h, s.plen)) (exec (.init .ripemd160) State.reset) =
      some (0x00000042, #v[0x67452301, 0xefcdab89, 0x98badcfe, 0x10325476, 0xc3d2e1f0, 0, 0, 0], 0) := by decide

/-- V33e: INIT clears the error. -/
theorem test_init_clears_error :
    got (fun s => (statusWord s, s.cause)) (exec (.init .ripemd160) failed) = some (0x00000042, 0) := by decide

/-- V25b: PAD of "abc" for RIPEMD-160, in place. -/
theorem test_pad_abc :
    got (fun s => (s.plen, s.mm.map Prod.snd)) (exec .pad (inited .ripemd160 (at' 0 abc 0 0 3))) =
      some (64, [0x61, 0x62, 0x63, 0x80] ++ List.replicate 52 0 ++ [0x18, 0, 0, 0, 0, 0, 0, 0]) := by decide +kernel

/-- V26c: the destination range. -/
theorem test_pad_destination_range :
    got (fun s => (statusWord s, s.cause, s.plen)) (exec .pad (inited .sha256 (at' 0 bs8 0 0xFF0 5))) =
      some (0x00000023, 6, 0) := by decide

/-- P2 (V30c): COMPRESS of the padded "abc" under RIPEMD-160. -/
theorem test_compress_ripemd160 :
    got State.h (exec .compress (inited .ripemd160
      (at' 0x100 ([0x61, 0x62, 0x63, 0x80] ++ List.replicate 52 0 ++ [0x18, 0, 0, 0, 0, 0, 0, 0]) 0x100 0 1))) =
      some #v[0xf708b28e, 0x7a985de0, 0x8e4a049b, 0x87b0c698, 0xfc0b5af1, 0, 0, 0] := by decide +kernel

/-- V32c and V32d: no blocks at the end of MM, and past it. -/
theorem test_compress_no_blocks :
    (got (fun s => (s.cause, s.h)) (exec .compress (inited .sha256 (at' 0 [] 0x1000 0 0))),
      got State.cause (exec .compress (inited .sha256 (at' 0 [] 0x1001 0 0)))) =
      (some (0, initialState .sha256), some 6) := by decide

/-- V32m (V3): HASHBUF sha224 of "abc". -/
theorem test_hashbuf_sha224 :
    got (fun s => (statusWord s, s.plen, s.h)) (exec (.hashbuf .sha224) (at' 0 abc 0 0 3)) =
      some (0x00000002, 64, #v[0x23097d22, 0x3405d822, 0x8642a477, 0xbda255b3, 0x2aadbce4, 0xbda0b3f7, 0xe36c9da7,
        0xd2da082d]) := by decide +kernel

/-- V31b: HASHBUF sha512 of "abc". -/
theorem test_hashbuf_sha512 :
    got State.h (exec (.hashbuf .sha512) (at' 0 abc 0 0 3)) =
      some #v[0xddaf35a193617aba, 0xcc417349ae204131, 0x12e6fa4e89a97ea2, 0x0a9eeee64b55d39a, 0x2192992a274fc1a8,
        0x36ba3c23a3feebbd, 0x454d4423643ce80e, 0x2a9ac94fa54ca49f] := by decide +kernel

/-- V28d: the longest total that is accepted. -/
theorem test_sbegin_longest :
    got (fun s => (statusWord s, s.mlen)) (exec (.sbegin .sha224)
      (offered { readable := true, lengthKnown := true, total := 0x1FFFFFFFFFFFFFFF })) =
      some (0x00000006, 0x1FFFFFFFFFFFFFFF) := by decide

/-- V28a and V28c: the first condition wins, and the shortest total that is not accepted. -/
theorem test_sbegin_errors :
    (got (fun s => (s.cause, s.port.length)) (exec (.sbegin .sha224)
        (offered { readable := false, lengthKnown := false, total := 0 })),
      got State.cause (exec (.sbegin .sha224)
        (offered { readable := true, lengthKnown := true, total := 0x2000000000000000 }))) =
      (some (2, 1), some 9) := by decide

/-- V27, N = 3 (V29c): one SSTEP with message, padding byte and footer. -/
theorem test_sstep_one_block :
    got (fun s => (statusWord s, s.bcnt, s.h)) (exec .sstep (streaming .sha256 3 0 false [.data abc])) =
      some (0x0000003A, 3, #v[0xba7816bf, 0x8f01cfea, 0x414140de, 0x5dae2223, 0xb00361a3, 0x96177a9c, 0xb410ff61,
        0xf20015ad]) := by decide +kernel

/-- V28g: a short read. -/
theorem test_sstep_short_read :
    got (fun s => (statusWord s, s.cause, s.mlen, s.bcnt)) (exec .sstep
      (streaming .sha224 100 64 false [.data (List.replicate 10 0)])) = some (0x00000003, 8, 100, 64) := by decide

/-- V22a and V22b. -/
theorem test_bswap :
    (got (fun s => s.mm.map Prod.snd) (exec (.bswap .w32) (at' 0 bs8 0 0 8)),
      got (fun s => s.mm.map Prod.snd) (exec (.bswap .w64) (at' 0 bs8 0 0 8))) =
      (some [4, 3, 2, 1, 8, 7, 6, 5], some [8, 7, 6, 5, 4, 3, 2, 1]) := by decide

/-- V22d to V22g: the order of the checks, and the ranges that end at MM_SIZE. -/
theorem test_bswap_checks :
    (got State.cause (exec (.bswap .w64) (at' 0 [] 0xFFE 0 6)), got State.cause (exec (.bswap .w64) (at' 0 [] 0xFFC 0 8)),
      got State.cause (exec (.bswap .w32) (at' 0xFFC [1, 2, 3, 4] 0xFFC 0 4)),
      got State.cause (exec (.bswap .w32) (at' 0 [] 0x1000 0 0))) = (some 1, some 6, some 0, some 0) := by decide

/-- V32b: STDIG stores the first seven words of the initial value, big-endian. -/
theorem test_stdig_sha224 :
    got (fun s => s.mm.map Prod.snd) (exec .stdig (inited .sha224 State.reset)) =
      some [0xc1, 0x05, 0x9e, 0xd8, 0x36, 0x7c, 0xd5, 0x07, 0x30, 0x70, 0xdd, 0x17, 0xf7, 0x0e, 0x59, 0x39, 0xff, 0xc0,
        0x0b, 0x31, 0x68, 0x58, 0x15, 0x11, 0x64, 0xf9, 0x8f, 0xa7] := by decide +kernel

/-- V32i and V32j: 28 bytes fit at 0xFE4 and 32 do not. -/
theorem test_stdig_range :
    (got State.cause (exec .stdig (inited .sha224 (at' 0 [] 0 0xFE4 0))),
      got State.cause (exec .stdig (inited .sha256 (at' 0 [] 0 0xFE4 0)))) = (some 0, some 6) := by decide +kernel

/-- V33g. -/
theorem test_clrerr : got (fun s => (statusWord s, s.cause)) (exec .clrerr failed) = some (0, 0) := by decide

/-! ### The host's side -/

/-- V33a, V33d and V33f: the gate. -/
theorem test_gate :
    (got State.cause (commandWrite 0x0000000A failed), got State.cause (commandWrite 0x00002001 failed),
      got State.cause (commandWrite 0x00000008 failed)) = (some 7, some 5, some 7) := by decide

/-- V34a: ID and MMSIZE. -/
theorem test_constants :
    (regRead State.reset 0x00C, regRead plain 0x00C, regRead State.reset 0x010) = (0x101, 0x001, 0x1000) := by decide

/-- P2: the DIGEST window of RIPEMD-160 shows the H words. -/
theorem test_digest_window :
    [0x0C0, 0x0D0, 0x0D4].map (regRead { inited .ripemd160 State.reset with
      h := #v[0xf708b28e, 0x7a985de0, 0x8e4a049b, 0x87b0c698, 0xfc0b5af1, 0, 0, 0] }) =
      [0xf708b28e, 0xfc0b5af1, 0] := by decide +kernel

/-- V34c: HASHBUF over bytes that nothing has written. -/
theorem test_unwritten : faultOf (exec (.hashbuf .sha256) (at' 0 abc 0 0 4)) = some (.unwrittenByte 3) := by decide

/-- 93 I4 and I5. -/
theorem test_refused :
    (refusalOf (step (waiting (.mmRead 0xFFF 2))), refusalOf (step (waiting (.regRead 0x002)))) =
      (some (.hostPortRange 0xFFF 2), some (.registerAccess 2 32)) := by decide

/-- Every command of the table runs as the first step after reset. -/
theorem test_first_step :
    ([0x000, 0x301, 0x002, 0x003, 0x304, 0x305, 0x006, 0x807, 0x008, 0x009] : List Nat).all
      (fun w => (after (step (State.reset.withFetchWord 32 w))).isSome) = true := by decide +kernel

/-- P1 written in the assembly language stands for these accesses (30_encoding R111, R112). -/
theorem test_pseudo_hash :
    (expandPseudo (.hash .sha224 0 3 0x40)).map asmAccess =
      [.regWrite 0x020 0, .regWrite 0x028 3, .regWrite 0 0x00000004, .regWrite 0x024 0x40, .regWrite 0 0x00000008] := by
  decide

/-- V24: the footer of the longest message. -/
theorem test_len_field :
    lenField (2 ^ 61 - 1) .sha256 = [0xff, 0xff, 0xff, 0xff, 0xff, 0xff, 0xff, 0xf8] := by decide

/-- R151: padLen around its steps, by hand from B * ceil((L + 1 + F) / B); V23's rows 112, 119 and 240 differ (log 15). -/
theorem test_pad_len :
    ([0, 55, 56, 119, 120, 239, 240].map (padLen · .sha256), [0, 111, 112, 239, 240].map (padLen · .sha512)) =
      ([64, 64, 128, 128, 192, 256, 256], [128, 128, 256, 256, 384]) := by decide

/-- V21a to V21e. -/
theorem test_conversion :
    (bytesToWords 4 .be bs8, bytesToWords 4 .le bs8, bytesToWords 8 .be bs8, bytesToWords 8 .le bs8,
      wordsToBytes 4 .le [0x01020304]) =
      ([0x01020304, 0x05060708], [0x04030201, 0x08070605], [0x0102030405060708], [0x0807060504030201],
        [4, 3, 2, 1]) := by decide

/-! ### Witnesses: for each obligation with hypotheses, a state and operands that meet them -/

theorem exists_next {r : Result} (h : (after r).isSome = true) : ∃ t, r = .next t := by
  cases r with
  | next t => exact ⟨t, rfl⟩
  | fault f => cases h
  | refused f => cases h

theorem test_witness_decode_of_encode :
    wellFormed true (.sbegin .sha512) = true ∧ wellFormed false (.sbegin .sha512) = false := by decide

theorem test_witness_encode_of_decode : decode true 0x00000304 = .ok (.hashbuf .sha512) := rfl

theorem test_witness_illegal_words :
    (State.reset.err = false ∧ decode State.reset.params.hasSha512 0x0000000A = .error .illegalCommand) ∧
      (plain.err = false ∧ decode plain.params.hasSha512 0x00000301 = .error .notImplemented) :=
  ⟨⟨rfl, rfl⟩, rfl, rfl⟩

theorem test_witness_step_runs_decoded_command :
    (waiting (.regWrite 0 0x00000002)).pending = .regWrite 0 0x00000002 :: [] ∧
      decode (waiting (.regWrite 0 0x00000002)).params.hasSha512 0x00000002 = .ok .pad := ⟨rfl, rfl⟩

/-- Dropped while an error is pending; let through by its OP, legal and illegal; let through without an error. -/
theorem test_witness_error_gate :
    (failed.err = true ∧ ¬ ((8 : Nat) = 0 ∨ (8 : Nat) = 1 ∨ (8 : Nat) = 4 ∨ (8 : Nat) = 5 ∨ (8 : Nat) = 9)) ∧
      decode failed.params.hasSha512 0x00000009 = .ok .clrerr ∧
      decode failed.params.hasSha512 0x00002001 = .error .illegalCommand ∧
      (State.reset.err = false ∧ decode State.reset.params.hasSha512 0x00000008 = .ok .stdig) :=
  ⟨⟨rfl, by decide⟩, rfl, rfl, rfl, rfl⟩

theorem test_witness_error_entry :
    commandWrite 0x00000008 State.reset = .next (raiseError .sequenceError State.reset) ∧
      (raiseError .sequenceError State.reset).err = true := ⟨rfl, rfl⟩

/-- Each command that can raise an error does so from some state without one. -/
theorem test_witness_errors_of_commands :
    [exec (.init .sha512) plain, exec .pad State.reset, exec .compress State.reset, exec (.hashbuf .sha512) plain,
      exec (.sbegin .sha224) (offered { readable := false, lengthKnown := true, total := 0 }), exec .sstep State.reset,
      exec (.bswap .w32) (at' 0 [] 0 0 1), exec .stdig State.reset].map (got State.err) =
      List.replicate 8 (some true) := by decide

theorem test_witness_sequence_errors :
    (State.reset.err = false ∧ State.reset.algv = false ∧ State.reset.sact = false) ∧
      ((streaming .sha256 100 64 false []).err = false ∧ (streaming .sha256 100 64 false []).algv = true ∧
        (streaming .sha256 100 64 false []).sact = true) ∧
      got State.cause (exec .compress (streaming .sha256 100 64 false [])) = some 7 := by decide

/-- Each range one byte too long, on memory that nothing has written. -/
theorem test_witness_address_range :
    0x1000 < (at' 0 [] 0xFFE 0 3).a0.toNat + (at' 0 [] 0xFFE 0 3).a2.toNat ∧
      0x1000 < (at' 0 [] 0 0xFC1 0).a1.toNat + padLen (at' 0 [] 0 0xFC1 0).a2.toNat .sha256 ∧
      0x1000 < (at' 0 [] 0x1001 0 0).a0.toNat + (at' 0 [] 0x1001 0 0).a2.toNat * (algParams .sha256).B ∧
      (0x1000 < (at' 0 [] 0xFFD 0 4).a0.toNat + (at' 0 [] 0xFFD 0 4).a2.toNat ∧ (at' 0 [] 0xFFD 0 4).a2.toNat % 4 = 0) ∧
      (0x1000 < (at' 0 [] 0xFF9 0 8).a0.toNat + (at' 0 [] 0xFF9 0 8).a2.toNat ∧ (at' 0 [] 0xFF9 0 8).a2.toNat % 8 = 0) ∧
      0x1000 < (at' 0 [] 0 0xFE5 0).a1.toNat + hashLengthBits .sha224 / 8 ∧
      (at' 0 [] 0 0 0).params.mmSize = 0x1000 ∧ algBuilt (at' 0 [] 0xFFE 0 3).params.hasSha512 .sha512 = true ∧
      ((inited .sha256 State.reset).err = false ∧ (inited .sha256 State.reset).algv = true ∧
        (inited .sha256 State.reset).sact = false) := by decide

theorem test_witness_invalid_length :
    State.reset.err = false ∧ (at' 0 [] 0 0 6).a2.toNat % 4 ≠ 0 ∧ (at' 0 [] 0 0 4).a2.toNat % 8 ≠ 0 ∧
      got State.cause (exec (.bswap .w64) (at' 0 [] 0 0 4)) = some 1 := by decide

theorem test_witness_sbegin_errors :
    algBuilt State.reset.params.hasSha512 .sha512 = true ∧
      (offered { readable := false, lengthKnown := false, total := 0 }).source.opens =
        { readable := false, lengthKnown := false, total := 0 } :: [] ∧
      (2 : Nat) ^ 61 ≤ (0x2000000000000000 : Word64).toNat := by decide

theorem test_witness_sstep_errors :
    ((streaming .sha256 3 0 false [.fault]).err = false ∧ (streaming .sha256 3 0 false [.fault]).sact = true ∧
      (streaming .sha256 3 0 false [.fault]).source.reads = .fault :: []) ∧
      ((streaming .sha256 3 0 false [.data bs8]).source.reads = .data bs8 :: [] ∧
        bs8.length ≠ min (algParams .sha256).B ((3 : Word64).toNat - (0 : Word64).toNat)) := by decide

theorem test_witness_not_implemented :
    plain.params.hasSha512 = false ∧ plain.err = false ∧
      got (fun s => (s.err, s.cause)) (exec (.init .sha512) plain) = some (true, 4) := by decide

/-- A byte nothing has written, and a source that does not answer. -/
theorem test_witness_command_stops :
    [exec .pad (inited .sha224 (at' 0 [] 0 0 1)), exec (.bswap .w32) (at' 0 abc 0 0 4),
      exec .sstep (streaming .sha256 3 0 false []), exec (.sbegin .sha256) State.reset].map faultOf =
      [some (.unwrittenByte 0), some (.unwrittenByte 3), some .streamNeverAnswers, some .streamNeverAnswers] := by decide

/-- The last byte of the source: A0 + A2 - 1 for HASHBUF, A0 + A2 * B - 1 for COMPRESS. -/
theorem test_witness_command_stops_at_end :
    [exec (.hashbuf .sha256) (at' 0 abc 0 0 4),
      exec .compress (inited .sha256 (at' 0 (zeros 63) 0 0 1))].map faultOf =
      [some (.unwrittenByte 3), some (.unwrittenByte 63)] := by decide +kernel

theorem test_witness_init : State.reset.params.hasSha512 = true := by decide

/-- The padded block ends at the end of MM. -/
theorem test_witness_pad :
    let s := inited .ripemd160 (at' 0 abc 0 0xFC0 3)
    s.err = false ∧ s.algv = true ∧ abc.length = s.a2.toNat ∧ holdsBytes s s.a0.toNat abc ∧
      s.a0.toNat + s.a2.toNat ≤ s.params.mmSize ∧ (algParams s.alg).B ∣ 64 ∧ s.a2.toNat + 1 + (algParams s.alg).F ≤ 64 ∧
      64 < s.a2.toNat + 1 + (algParams s.alg).F + (algParams s.alg).B ∧ s.a1.toNat + 64 ≤ s.params.mmSize := by
  unfold holdsBytes; decide

/-- Its regions at their bounds: the padding byte, the first and the last zero, and the footer's first and last byte. -/
theorem test_witness_pad_regions :
    (after (exec .pad (inited .ripemd160 (at' 0 abc 0 0xFC0 3)))).map
      (fun s => [3, 4, 55, 56, 63].map (fun i => memByte s.mm (0xFC0 + i))) =
      some [some 0x80, some 0, some 0, some 0x18, some 0] := by decide +kernel

theorem test_witness_compress :
    let s := inited .sha256 (at' 0 (zeros 64) 0 0 1)
    s.err = false ∧ s.algv = true ∧ s.sact = false ∧ (zeros 64).length = s.a2.toNat * (algParams s.alg).B ∧
      holdsBytes s s.a0.toNat (zeros 64) ∧ s.a0.toNat + s.a2.toNat * (algParams s.alg).B ≤ s.params.mmSize := by
  unfold holdsBytes; decide +kernel

/-- Two blocks, one and one. -/
theorem test_witness_compress_in_two_parts :
    let s := inited .sha256 (at' 0 (zeros 128) 0 0 2)
    (s.err = false ∧ s.algv = true ∧ s.sact = false ∧ s.params.wf ∧ s.a2.toNat = 1 + 1 ∧
      s.a0.toNat + (1 + 1) * (algParams s.alg).B ≤ s.params.mmSize) ∧
      ∃ t u, exec .compress { s with a2 := BitVec.ofNat 32 1 } = .next t ∧
        exec .compress { t with
          a0 := BitVec.ofNat 32 (s.a0.toNat + 1 * (algParams s.alg).B), a2 := BitVec.ofNat 32 1 } = .next u := by
  refine ⟨by decide +kernel, ?_⟩
  have h : (after (exec .compress
      { inited .sha256 (at' 0 (zeros 128) 0 0 2) with a2 := BitVec.ofNat 32 1 })).isSome = true := by decide +kernel
  obtain ⟨t, ht⟩ := exists_next h
  have hu : (after (match exec .compress { inited .sha256 (at' 0 (zeros 128) 0 0 2) with a2 := BitVec.ofNat 32 1 } with
      | .next t => exec .compress { t with a0 := 64, a2 := 1 }
      | .fault f => .fault f
      | .refused f => .refused f)).isSome = true := by decide +kernel
  rw [ht] at hu
  obtain ⟨u, hu⟩ := exists_next hu
  exact ⟨t, u, ht, hu⟩

/-- The message ends at the end of MM. -/
theorem test_witness_hashbuf :
    let s := at' 0xFFD abc 0xFFD 0 3
    algBuilt s.params.hasSha512 .sha512 = true ∧ abc.length = s.a2.toNat ∧ holdsBytes s s.a0.toNat abc ∧
      s.a0.toNat + s.a2.toNat ≤ s.params.mmSize := by unfold holdsBytes; decide +kernel

theorem test_witness_buffer_path :
    let s := at' 0 abc 0 0xF80 3
    algBuilt s.params.hasSha512 .sha512 = true ∧ s.params.wf ∧ abc.length = s.a2.toNat ∧ holdsBytes s s.a0.toNat abc ∧
      s.a0.toNat + s.a2.toNat ≤ s.params.mmSize ∧ s.a1.toNat + padLen s.a2.toNat .sha512 ≤ s.params.mmSize := by
  unfold holdsBytes; decide +kernel

theorem test_witness_sbegin :
    algBuilt State.reset.params.hasSha512 .sha512 = true ∧
      (offered { readable := true, lengthKnown := true, total := 0x1FFFFFFFFFFFFFFF }).source.opens =
        { readable := true, lengthKnown := true, total := 0x1FFFFFFFFFFFFFFF } :: [] ∧
      (0x1FFFFFFFFFFFFFFF : Word64).toNat < 2 ^ 61 := by decide

/-- A state and an answer for each row of the reader's table, at its bounds: r = 64; r = 0 and r = 55; r = 56 and
r = 63; the footer alone. -/
theorem test_witness_sstep_transitions :
    [(64, 0, false), (64, 64, false), (119, 64, false), (120, 64, false), (127, 64, false), (120, 120, true)].map
      (fun p : Word64 × Word64 × Bool =>
        got (fun s => (s.pinj, s.sdone, s.sact)) (exec .sstep (streaming .sha256 p.1 p.2.1 p.2.2
          [.data (zeros (min 64 (p.1.toNat - p.2.1.toNat)))]))) =
      [some (false, false, true), some (true, true, false), some (true, true, false), some (true, false, true),
        some (true, false, true), some (true, true, false)] := by decide +kernel

/-- The hypotheses of the four rows as they stand. -/
theorem test_witness_sstep_rows :
    let s := streaming .sha256 120 64 false [.data (zeros 56)]
    (s.err = false ∧ s.sact = true ∧ s.bcnt.toNat ≤ s.mlen.toNat ∧ s.source.reads = .data (zeros 56) :: [] ∧
      (zeros 56).length = min (algParams s.alg).B (s.mlen.toNat - s.bcnt.toNat)) ∧
      (s.pinj = false ∧ (algParams s.alg).B - (algParams s.alg).F ≤ s.mlen.toNat - s.bcnt.toNat ∧
        s.mlen.toNat - s.bcnt.toNat < (algParams s.alg).B) := by decide

theorem test_witness_stream_buffers :
    0 < (pad abc .sha256).length / (algParams .sha256).B ∧ 1 < (pad (zeros 56) .sha256).length / (algParams .sha256).B := by
  decide +kernel

theorem test_witness_cross_path :
    let x : OpenAnswer := { readable := true, lengthKnown := true, total := 3 }
    let s : State := { State.reset with source := { opens := [x], reads := conformingReads .sha256 abc ++ [] } }
    (algBuilt s.params.hasSha512 .sha256 = true ∧ x.readable = true ∧ x.lengthKnown = true ∧
      x.total.toNat = abc.length ∧ abc.length < 2 ^ 61 ∧ s.source.opens = x :: [] ∧
      s.source.reads = conformingReads .sha256 abc ++ []) ∧
      holdsBytes (at' 0 abc 0 0 3) (at' 0 abc 0 0 3).a0.toNat abc ∧ abc.length = (at' 0 abc 0 0 3).a2.toNat ∧
      got State.err (exec (.hashbuf .sha256) (at' 0 abc 0 0 3)) = some false := by unfold holdsBytes; decide +kernel

/-- The state a finished stream of no bytes leaves, but for H. -/
def finished : State := { initEffects .sha256 State.reset with pinj := true, sdone := true }

theorem inv_finished : Inv finished := by constructor <;> decide

theorem test_witness_done_stream : Inv finished ∧ finished.sdone = true := ⟨inv_finished, rfl⟩

theorem test_witness_bswap :
    let s := at' 0xFF8 bs8 0xFF8 0 8
    s.err = false ∧ bs8.length = s.a2.toNat ∧ holdsBytes s s.a0.toNat bs8 ∧ s.a2.toNat % 4 = 0 ∧ s.a2.toNat % 8 = 0 ∧
      s.a0.toNat + s.a2.toNat ≤ s.params.mmSize := by unfold holdsBytes; decide +kernel

theorem test_witness_bswap_twice :
    Memory.wf (at' 0 bs8 0 0 8).mm ∧ (at' 0 bs8 0 0 8).err = false ∧
      got State.err (exec (.bswap .w64) (at' 0 bs8 0 0 8)) = some false := by decide

theorem test_witness_stdig :
    let s := inited .sha224 (at' 0 [] 0 0xFE4 0)
    s.err = false ∧ s.algv = true ∧ s.sact = false ∧ s.a1.toNat + hashLengthBits s.alg / 8 ≤ s.params.mmSize ∧
      (6 : Nat) < (algParams s.alg).nd ∧ (3 : Nat) < (algParams s.alg).W := by decide

theorem test_witness_conversion :
    bs8.length % 4 = 0 ∧ bs8.length % 8 = 0 ∧ ((3 : Nat) < 4 ∧ 1 * 4 + 3 < bs8.length) := by decide

theorem test_witness_pad_len : Alg.ripemd160 ≠ .sha512 ∧ (55 : Nat) ≤ 55 ∧ (56 : Nat) ≤ 56 ∧ (119 : Nat) ≤ 119 := by decide

theorem test_witness_pad_properties :
    1 ≤ abc.length ∧ abc.length < 55 ∧ (55 : Nat) < padLen abc.length .sha256 - (algParams .sha256).F := by decide

theorem test_witness_footer : abc.length < 2 ^ 61 := by decide

theorem test_witness_schedule :
    (List.replicate 16 (0x80636261 : Word32)).length = 16 ∧ (List.replicate 16 (1 : Word64)).length = 16 ∧
      ((16 : Nat) ≤ 63 ∧ (63 : Nat) < 64) ∧ ((16 : Nat) ≤ 79 ∧ (79 : Nat) < 80) := by decide

theorem test_witness_process_block :
    ((algParams .ripemd160).nH ≤ 5 ∧ (5 : Nat) < 8) ∧ Alg.ripemd160 ≠ .sha512 ∧
      ∀ i, i < (algParams .ripemd160).nH →
        lowHalf (bankReg #v[0x100000000, 0, 0, 0, 0, 0, 0, 0] i) = lowHalf (bankReg #v[0, 0, 0, 0, 0, 0, 0, 0] i) := by decide

theorem test_witness_register_reads :
    State.reset.params.wf ∧ validOffset 0x048 = true ∧ validOffset 0x07C = true ∧ validOffset 0x100 = true ∧
      validOffset 0xFFC = true ∧ validOffset 0x01C = true ∧ validOffset 0x02C = true := by decide

theorem test_witness_register_writes :
    (waiting (.regWrite 0x020 1)).pending = .regWrite 0x020 1 :: [] ∧
      ([0x004, 0x01C, 0x020, 0x024, 0x028, 0x02C, 0x030, 0x07C, 0x080, 0x084, 0x0B8, 0x0BC, 0x0C0, 0xFFC] : List Nat).all
        validOffset = true ∧ 0x0B8 = 0x080 + 8 * 7 ∧ 0x0BC = 0x084 + 8 * 7 := by decide

theorem test_witness_digest_window :
    failed.err = true ∧ State.reset.algv = false ∧ (streaming .sha256 100 64 false []).sact = true ∧
      digestDefined (inited .sha512 State.reset) ∧ (15 : Nat) < 16 := by unfold digestDefined; decide

theorem test_witness_reads :
    ((waiting (.regRead 0x004)).pending = .regRead 0x004 :: [] ∧ validOffset 0x004 = true) ∧
      (let s := { at' 0xFFD abc 0 0 0 with pending := [.mmRead 0xFFD abc.length] }
      s.pending = .mmRead 0xFFD abc.length :: [] ∧ 0xFFD + abc.length ≤ s.params.mmSize ∧ holdsBytes s 0xFFD abc) := by
  unfold holdsBytes; decide +kernel

theorem test_witness_host_port :
    let s := { State.reset with pending := [.mmWrite 0xFFD abc, .mmRead 0xFFD abc.length] }
    s.pending = .mmWrite 0xFFD abc :: .mmRead 0xFFD abc.length :: [] ∧ 0xFFD + abc.length ≤ s.params.mmSize := by decide

theorem test_witness_outside_accesses :
    [HostAccess.regWrite 0x1000 0, .regWrite 0x021 0, .regRead 0x1000, .regOther 0x020 8, .mmRead 0x1000 1,
      .mmWrite 0xFFE abc, .resetDuringCommand, .sharedSource].map (fun a => refusalOf (step (waiting a))) =
      [some (.registerAccess 0x1000 32), some (.registerAccess 0x021 32), some (.registerAccess 0x1000 32),
        some (.registerAccess 0x020 8), some (.hostPortRange 0x1000 1), some (.hostPortRange 0xFFE 3),
        some .resetDuringCommand, some .sharedStreamSource] := by decide

theorem test_witness_reset_values : Config.defaultParams.wf ∧ plain.params.wf := by decide

theorem test_witness_reset_step : (waiting .reset).pending = .reset :: [] := rfl

theorem inv_reset : Inv State.reset := by constructor <;> decide

theorem test_witness_step_keeps_invariant : Inv State.reset ∧ step State.reset = .next State.reset := ⟨inv_reset, rfl⟩

theorem test_witness_high_halves :
    HighHalvesClear (waiting (.regWrite 0x020 1)) ∧
      (∀ a rest, (waiting (.regWrite 0x020 1)).pending = a :: rest → writesBank a = false) ∧
      (got State.a0 (step (waiting (.regWrite 0x020 1)))) = some 1 :=
  ⟨by unfold HighHalvesClear; decide, by intro a rest h; cases h; rfl, by decide⟩

theorem test_witness_parameters : step State.reset = .next State.reset := rfl

theorem test_witness_commands_write_only : exec .clrerr failed = .next (clearError failed) := rfl

/-- The premises of each clause: an error cleared, ALGV set, and each cursor flag set. -/
theorem test_witness_flag_writers :
    (failed.err = true ∧ got State.err (exec .clrerr failed) = some false) ∧
      (State.reset.algv = false ∧ got State.algv (exec (.init .sha256) State.reset) = some true) ∧
      got (fun s => (s.sact, s.pinj)) (exec (.sbegin .sha256)
        (offered { readable := true, lengthKnown := true, total := 0 })) = some (true, false) ∧
      got (fun s => (s.pinj, s.sdone)) (exec .sstep (streaming .sha256 3 0 false [.data abc])) = some (true, true) ∧
      got State.err (exec .sstep State.reset) = some true := by decide +kernel

/-- The premises of the clauses that clear: SACT by INIT, by the SSTEP that ends the stream, and by an error; PINJ and
SDONE by INIT and by an error. -/
theorem test_witness_flag_clearers :
    ((streaming .sha256 3 0 false [.data abc]).sact = true ∧
      [exec (.init .sha224) (streaming .sha256 3 0 false []), exec .sstep (streaming .sha256 3 0 false [.data abc]),
        exec .stdig (streaming .sha256 3 0 false [])].map (got (fun s => (s.sact, s.sdone, s.err))) =
        [some (false, false, false), some (false, true, false), some (false, false, true)]) ∧
      let done : State := { initEffects .sha256 State.reset with pinj := true, sdone := true }
      [exec (.init .sha224) done, exec .sstep done].map (got (fun s => (s.pinj, s.sdone, s.err))) =
        [some (false, false, false), some (false, false, true)] := by decide +kernel

theorem test_witness_instances :
    (System.reset [Config.defaultParams, Config.defaultParams]).engines[1]? = some State.reset ∧
      step State.reset = .next State.reset := ⟨rfl, rfl⟩

theorem test_witness_system :
    (∀ p ∈ [Config.defaultParams, Config.defaultParams], p.wf) ∧
      (System.reset [Config.defaultParams, Config.defaultParams]).wf ∧
      systemStep 1 (System.reset [Config.defaultParams, Config.defaultParams]) =
        .next (System.reset [Config.defaultParams, Config.defaultParams]) := ⟨by decide, by decide, rfl⟩

/-- N_ENGINES ≥ 1 (00_scope R13): one instance is a system, none is not. -/
theorem test_n_engines : (System.reset [Config.defaultParams]).wf ∧ ¬(System.reset []).wf := by decide

/-- Two instances of one system are found at their own bases (20_memory R77). -/
theorem test_locate :
    let p : Params := { Config.defaultParams with regBase := 0x4000, mmBase := 0x5000 }
    let sys := System.reset [Config.defaultParams, p]
    (locateReg 0x0020 sys, locateReg 0x4020 sys, locateMM 0x1FFF sys, locateMM 0x5000 sys, locateMM 0x3000 sys) =
      (some (0, 0x20), some (1, 0x20), some (0, 0xFFF), some (1, 0), none) := by decide

end Sys2Proof.Tests
end

section
/-! SUPPORT. The parameters are constants of an engine (10_state R44, R45, 70_reset R362): no command, no host access
and so no step changes them. -/

namespace Sys2Proof.Machine

@[simp] theorem State.resetWith_params (p : Params) : (State.resetWith p).params = p := rfl

@[simp] theorem regWrite_params (s : State) (o : Nat) (v : Word32) : (regWrite s o v).params = s.params := by
  obtain h | h | h | ⟨-, i, w, -, h⟩ | h := regWrite_cases s o v <;> simp [h]

/-! ### Commands -/

theorem execInit_params {alg : Alg} {s t : State} (h : execInit alg s = .next t) : t.params = s.params := by
  obtain ⟨-, rfl⟩ | ⟨-, rfl⟩ := execInit_next h <;> simp

theorem execPad_params {s t : State} (h : execPad s = .next t) : t.params = s.params := by
  obtain ⟨-, rfl⟩ | ⟨-, ⟨-, rfl⟩ | ⟨-, -, rfl⟩ | ⟨-, -, -, msg, -, rfl⟩⟩ := execPad_next h <;> simp

theorem execCompress_params {s t : State} (h : execCompress s = .next t) : t.params = s.params := by
  obtain ⟨-, rfl⟩ | ⟨-, ⟨-, rfl⟩ | ⟨-, -, -, rfl⟩ | ⟨-, -, -, data, -, rfl⟩⟩ := execCompress_next h <;> simp

theorem execHashbuf_params {alg : Alg} {s t : State} (h : execHashbuf alg s = .next t) : t.params = s.params := by
  obtain ⟨-, rfl⟩ | ⟨-, ⟨-, rfl⟩ | ⟨-, msg, -, rfl⟩⟩ := execHashbuf_next h <;> simp

theorem execSbegin_params {alg : Alg} {s t : State} (h : execSbegin alg s = .next t) : t.params = s.params := by
  obtain ⟨-, rfl⟩ | ⟨-, x, rest, -, ⟨-, rfl⟩ | ⟨-, -, rfl⟩ | ⟨-, -, -, rfl⟩ | ⟨-, -, -, rfl⟩⟩ := execSbegin_next h <;>
    simp

theorem execSstep_params {s t : State} (h : execSstep s = .next t) : t.params = s.params := by
  obtain ⟨-, rfl⟩ | ⟨-, ⟨-, rfl⟩ | ⟨-, x, rest, -, ⟨-, rfl⟩ | ⟨bs, -, -, rfl⟩ | ⟨bs, -, -, rfl⟩⟩⟩ := execSstep_next h <;>
    simp

theorem execBswap_params {ws : WordSize} {s t : State} (h : execBswap ws s = .next t) : t.params = s.params := by
  obtain ⟨-, rfl⟩ | ⟨-, ⟨-, rfl⟩ | ⟨-, -, rfl⟩ | ⟨-, -, src, -, rfl⟩⟩ := execBswap_next h <;> simp

theorem execStdig_params {s t : State} (h : execStdig s = .next t) : t.params = s.params := by
  obtain ⟨-, rfl⟩ | ⟨-, ⟨-, rfl⟩ | ⟨-, -, -, rfl⟩ | ⟨-, -, -, rfl⟩⟩ := execStdig_next h <;> simp

theorem exec_params {i : Instr} {s t : State} (h : exec i s = .next t) : t.params = s.params := by
  cases i with
  | nop => rw [execNop_next h]
  | init alg => exact execInit_params h
  | pad => exact execPad_params h
  | compress => exact execCompress_params h
  | hashbuf alg => exact execHashbuf_params h
  | sbegin alg => exact execSbegin_params h
  | sstep => exact execSstep_params h
  | bswap ws => exact execBswap_params h
  | stdig => exact execStdig_params h
  | clrerr => rw [execClrerr_next h, clearError_params]

/-! ### Host accesses and steps -/

theorem commandWrite_params {c : Word32} {s t : State} (h : commandWrite c s = .next t) : t.params = s.params := by
  obtain rfl | ⟨e, -, rfl⟩ | ⟨i, -, hi⟩ := commandWrite_next h
  · rfl
  · exact raiseError_params e s
  · exact exec_params hi

theorem hostAccess_params {a : HostAccess} {s t : State} (h : hostAccess a s = .next t) : t.params = s.params := by
  obtain ⟨v, -, hc⟩ | ⟨o, v, -, -, -, rfl⟩ | ⟨o, -, -, rfl⟩ | ⟨x, bs, -, -, rfl⟩ | ⟨x, n, bs, -, -, -, rfl⟩ |
    ⟨src, -, rfl⟩ | ⟨-, rfl⟩ := hostAccess_next h
  · exact commandWrite_params hc
  all_goals simp

theorem step_params {s t : State} (h : step s = .next t) : t.params = s.params := by
  obtain ⟨-, rfl⟩ | ⟨a, rest, -, ha⟩ := hostStep_next h
  · rfl
  · simpa using hostAccess_params ha

end Sys2Proof.Machine
end

section
/-! SUPPORT. A system as a list of engines (00_scope R13, 60_exceptions R345): what it is after reset and what a step
of one engine leaves of it. -/

namespace Sys2Proof.Machine

@[simp] theorem System.reset_nEngines (ps : List Params) : (System.reset ps).nEngines = ps.length := List.length_map _

theorem System.reset_engines_getElem? (ps : List Params) (k : Nat) :
    (System.reset ps).engines[k]? = ps[k]?.map State.resetWith := List.getElem?_map

theorem System.reset_wf {ps : List Params} (hn : 1 ≤ ps.length) (hp : ∀ p ∈ ps, p.wf) : (System.reset ps).wf := by
  refine ⟨by rwa [System.reset_nEngines], fun s hs => ?_⟩
  obtain ⟨p, hmem, rfl⟩ := List.mem_map.1 hs
  exact hp p hmem

theorem systemStep_next {k : Nat} {sys sys' : System} (h : systemStep k sys = .next sys') :
    (sys.engines[k]? = none ∧ sys' = sys) ∨
      (∃ s t, sys.engines[k]? = some s ∧ step s = .next t ∧ sys' = { engines := sys.engines.set k t }) := by
  unfold systemStep at h
  split at h
  · cases h; exact .inl ⟨by assumption, rfl⟩
  split at h
  · cases h; exact .inr ⟨_, _, by assumption, by assumption, rfl⟩
  · cases h
  · cases h

theorem systemStep_nEngines {k : Nat} {sys sys' : System} (h : systemStep k sys = .next sys') :
    sys'.nEngines = sys.nEngines := by
  obtain ⟨-, rfl⟩ | ⟨s, t, -, -, rfl⟩ := systemStep_next h
  · rfl
  · exact List.length_set

/-- The engine stepped keeps its parameters, and every other engine is an old one. -/
theorem systemStep_keeps_params_wf {k : Nat} {sys sys' : System} (h : systemStep k sys = .next sys')
    (hp : ∀ s ∈ sys.engines, s.params.wf) : ∀ s ∈ sys'.engines, s.params.wf := by
  obtain ⟨-, rfl⟩ | ⟨s, t, hs, hstep, rfl⟩ := systemStep_next h
  · exact hp
  · intro u hu
    obtain hu | rfl := List.mem_or_eq_of_mem_set hu
    · exact hp u hu
    · rw [step_params hstep]
      exact hp s (List.mem_of_getElem? hs)

theorem systemStep_keeps_wf {k : Nat} {sys sys' : System} (hwf : sys.wf) (h : systemStep k sys = .next sys') :
    sys'.wf := by
  obtain ⟨hn, hp⟩ := hwf
  exact ⟨by rwa [systemStep_nEngines h], systemStep_keeps_params_wf h hp⟩

/-- Settles O56: reset maps the parameters to engines one by one, and a step replaces one engine by one with the
same parameters. -/
theorem systemHasInstances : Obligations.SystemHasInstances := by
  unfold Obligations.SystemHasInstances
  constructor
  · intro ps hn hp
    refine ⟨System.reset_wf hn hp, System.reset_nEngines ps, fun k p hk => ?_⟩
    rw [System.reset_engines_getElem?, hk, Option.map_some]
  · intro sys sys' k hwf h
    exact ⟨systemStep_keeps_wf hwf h, systemStep_nEngines h⟩

end Sys2Proof.Machine
end

section
/-! SUPPORT. What a command can do, said once for all ten: the error gate drops it, it raises an error, or it
completes (60_exceptions R330, R333, 46_hasher R295). -/

namespace Sys2Proof.Machine

/-- A command that completes, with the conditions under which it does and what it leaves. -/
inductive Completes : Instr → State → State → Prop
  | nop (s : State) : Completes .nop s s
  | init {alg : Alg} {s : State} (built : algBuilt s.params.hasSha512 alg = true) :
      Completes (.init alg) s (initEffects alg s)
  | pad {s : State} {msg : List Byte} (noErr : s.err = false) (selected : s.algv = true)
      (srcIn : srcAddr s + lenArg s ≤ s.params.mmSize)
      (dstIn : dstAddr s + padLen (lenArg s) s.alg ≤ s.params.mmSize)
      (read : memRead s.mm (srcAddr s) (lenArg s) = .ok msg) :
      Completes .pad s
        (setPlen (padLen (lenArg s) s.alg) (setMM (memWrite s.mm (dstAddr s) (pad msg s.alg)) s))
  | compress {s : State} {data : List Byte} (noErr : s.err = false) (selected : s.algv = true)
      (noStream : s.sact = false) (srcIn : srcAddr s + compressBytes s ≤ s.params.mmSize)
      (read : memRead s.mm (srcAddr s) (compressBytes s) = .ok data) :
      Completes .compress s (setH (processBlocks s.alg s.h data) s)
  | hashbuf {alg : Alg} {s : State} {msg : List Byte} (built : algBuilt s.params.hasSha512 alg = true)
      (srcIn : srcAddr s + lenArg s ≤ s.params.mmSize) (read : memRead s.mm (srcAddr s) (lenArg s) = .ok msg) :
      Completes (.hashbuf alg) s (setPlen (padLen (lenArg s) alg) (setH (bufferState alg msg) (initEffects alg s)))
  | sbegin {alg : Alg} {s : State} {x : OpenAnswer} {rest : List OpenAnswer}
      (built : algBuilt s.params.hasSha512 alg = true) (answered : s.source.opens = x :: rest)
      (readable : x.readable = true) (known : x.lengthKnown = true) (inRange : x.total.toNat < 2 ^ 61) :
      Completes (.sbegin alg) s (openStream x.total (initEffects alg (tookOpen x rest s)))
  | sstep {s : State} {bs : List Byte} {rest : List ReadAnswer} (noErr : s.err = false) (streaming : s.sact = true)
      (answered : s.source.reads = .data bs :: rest) (delivered : bs.length = stepBytes s) :
      Completes .sstep s
        (advanceStream (processBlock s.alg s.h (streamBuffer s.alg s.mlen.toNat s.pinj bs)) bs.length
          (injects s.alg s.pinj bs.length) (placesFooter s.alg s.pinj bs.length)
          (tookRead (stepBytes s) (.data bs) rest s))
  | bswap {ws : WordSize} {s : State} {src : List Byte} (noErr : s.err = false)
      (whole : lenArg s % wordSizeBytes ws = 0) (srcIn : srcAddr s + lenArg s ≤ s.params.mmSize)
      (read : memRead s.mm (srcAddr s) (lenArg s) = .ok src) :
      Completes (.bswap ws) s (setMM (memWrite s.mm (srcAddr s) (swapBytes (wordSizeBytes ws) src)) s)
  | stdig {s : State} (noErr : s.err = false) (selected : s.algv = true) (noStream : s.sact = false)
      (dstIn : dstAddr s + digestBytes s.alg ≤ s.params.mmSize) :
      Completes .stdig s (setMM (memWrite s.mm (dstAddr s) (digest s.alg s.h)) s)
  | clrerr (s : State) : Completes .clrerr s (clearError s)

/-- What a command has asked of the stream source when it raises an error: nothing, or the one request of SBEGIN or
SSTEP, which is answered (60_exceptions R331). -/
inductive Asked : Instr → State → State → Prop
  | nothing (i : Instr) (s : State) : Asked i s s
  | opened (alg : Alg) (s : State) (x : OpenAnswer) (rest : List OpenAnswer) :
      Asked (.sbegin alg) s (tookOpen x rest s)
  | read (s : State) (k : Nat) (x : ReadAnswer) (rest : List ReadAnswer) : Asked .sstep s (tookRead k x rest s)

/-- Whether some error stands in the command's row of R295. -/
def canRaise : Instr → Bool
  | .nop | .clrerr => false
  | .init _ | .pad | .compress | .hashbuf _ | .sbegin _ | .sstep | .bswap _ | .stdig => true

/-- The commands that the error gate drops while ERR = 1 (60_exceptions R333). -/
def isGated : Instr → Bool
  | .pad | .compress | .sstep | .bswap _ | .stdig => true
  | .nop | .init _ | .hashbuf _ | .sbegin _ | .clrerr => false

/-- The three ways in which a command can go on. An error is raised only past the gate: with ERR = 0, or by a starting
command. -/
inductive Executes (i : Instr) (s : State) : State → Prop
  | dropped (errorPending : s.err = true) (gate : isGated i = true) : Executes i s s
  | raised (e : ErrorCode) {u : State} (asked : Asked i s u) (row : canRaise i = true)
      (passed : s.err = false ∨ isStarting i = true) : Executes i s (raiseError e u)
  | completed {t : State} (done : Completes i s t) : Executes i s t

theorem execInit_executes {alg : Alg} {s t : State} (h : execInit alg s = .next t) : Executes (.init alg) s t := by
  obtain ⟨-, rfl⟩ | ⟨hb, rfl⟩ := execInit_next h
  · exact .raised _ (.nothing _ s) rfl (.inr rfl)
  · exact .completed (.init hb)

theorem execPad_executes {s t : State} (h : execPad s = .next t) : Executes .pad s t := by
  obtain ⟨he, rfl⟩ | ⟨he, ⟨-, rfl⟩ | ⟨-, -, rfl⟩ | ⟨ha, hs, hd, msg, hm, rfl⟩⟩ := execPad_next h
  · exact .dropped he rfl
  · exact .raised _ (.nothing _ s) rfl (.inl he)
  · exact .raised _ (.nothing _ s) rfl (.inl he)
  · exact .completed (.pad he ha hs hd hm)

theorem execCompress_executes {s t : State} (h : execCompress s = .next t) : Executes .compress s t := by
  obtain ⟨he, rfl⟩ | ⟨he, ⟨-, rfl⟩ | ⟨-, -, -, rfl⟩ | ⟨ha, hs, hr, data, hm, rfl⟩⟩ := execCompress_next h
  · exact .dropped he rfl
  · exact .raised _ (.nothing _ s) rfl (.inl he)
  · exact .raised _ (.nothing _ s) rfl (.inl he)
  · exact .completed (.compress he ha hs hr hm)

theorem execHashbuf_executes {alg : Alg} {s t : State} (h : execHashbuf alg s = .next t) :
    Executes (.hashbuf alg) s t := by
  obtain ⟨-, rfl⟩ | ⟨hb, ⟨-, rfl⟩ | ⟨hr, msg, hm, rfl⟩⟩ := execHashbuf_next h
  · exact .raised _ (.nothing _ s) rfl (.inr rfl)
  · exact .raised _ (.nothing _ s) rfl (.inr rfl)
  · exact .completed (.hashbuf hb hr hm)

theorem execSbegin_executes {alg : Alg} {s t : State} (h : execSbegin alg s = .next t) :
    Executes (.sbegin alg) s t := by
  obtain ⟨-, rfl⟩ | ⟨hb, x, rest, hx, ⟨-, rfl⟩ | ⟨-, -, rfl⟩ | ⟨-, -, -, rfl⟩ | ⟨hr, hk, hl, rfl⟩⟩ := execSbegin_next h
  · exact .raised _ (.nothing _ s) rfl (.inr rfl)
  · exact .raised _ (.opened alg s x rest) rfl (.inr rfl)
  · exact .raised _ (.opened alg s x rest) rfl (.inr rfl)
  · exact .raised _ (.opened alg s x rest) rfl (.inr rfl)
  · exact .completed (.sbegin hb hx hr hk hl)

theorem execSstep_executes {s t : State} (h : execSstep s = .next t) : Executes .sstep s t := by
  obtain ⟨he, rfl⟩ | ⟨he, ⟨-, rfl⟩ | ⟨hs, x, rest, hx, ⟨-, rfl⟩ | ⟨bs, -, -, rfl⟩ | ⟨bs, rfl, hl, rfl⟩⟩⟩ :=
    execSstep_next h
  · exact .dropped he rfl
  · exact .raised _ (.nothing _ s) rfl (.inl he)
  · exact .raised _ (.read s _ x rest) rfl (.inl he)
  · exact .raised _ (.read s _ x rest) rfl (.inl he)
  · exact .completed (.sstep he hs hx hl)

theorem execBswap_executes {ws : WordSize} {s t : State} (h : execBswap ws s = .next t) :
    Executes (.bswap ws) s t := by
  obtain ⟨he, rfl⟩ | ⟨he, ⟨-, rfl⟩ | ⟨-, -, rfl⟩ | ⟨hw, hr, src, hm, rfl⟩⟩ := execBswap_next h
  · exact .dropped he rfl
  · exact .raised _ (.nothing _ s) rfl (.inl he)
  · exact .raised _ (.nothing _ s) rfl (.inl he)
  · exact .completed (.bswap he hw hr hm)

theorem execStdig_executes {s t : State} (h : execStdig s = .next t) : Executes .stdig s t := by
  obtain ⟨he, rfl⟩ | ⟨he, ⟨-, rfl⟩ | ⟨-, -, -, rfl⟩ | ⟨ha, hs, hd, rfl⟩⟩ := execStdig_next h
  · exact .dropped he rfl
  · exact .raised _ (.nothing _ s) rfl (.inl he)
  · exact .raised _ (.nothing _ s) rfl (.inl he)
  · exact .completed (.stdig he ha hs hd)

/-- Every command that goes on has been dropped, has raised an error or has completed. -/
theorem exec_executes {i : Instr} {s t : State} (h : exec i s = .next t) : Executes i s t := by
  cases i with
  | nop => obtain rfl := execNop_next h; exact .completed (.nop t)
  | init alg => exact execInit_executes h
  | pad => exact execPad_executes h
  | compress => exact execCompress_executes h
  | hashbuf alg => exact execHashbuf_executes h
  | sbegin alg => exact execSbegin_executes h
  | sstep => exact execSstep_executes h
  | bswap ws => exact execBswap_executes h
  | stdig => exact execStdig_executes h
  | clrerr => obtain rfl := execClrerr_next h; exact .completed (.clrerr s)

end Sys2Proof.Machine
end

section
/-! SUPPORT. The invariants R52 (a) to (e): each update of the state keeps them, so every command, every host access and
every step does. -/

namespace Sys2Proof.Machine

/-! ### The updates -/

/-- The invariants read no operand register, no bank, no PLEN and nothing of the world outside the engine. -/
theorem inv_of_unread {s t : State} (hi : Inv s) (ht : t = { s with
    h := t.h, a0 := t.a0, a1 := t.a1, a2 := t.a2, plen := t.plen, source := t.source, port := t.port,
    pending := t.pending, reply := t.reply }) : Inv t := by
  rw [ht]
  exact { hi with }

/-- R52 holds right after reset: no stream, no error, algorithm 0 and an empty memory. -/
theorem inv_resetWith (p : Params) : Inv (State.resetWith p) := by
  constructor <;> simp [State.resetWith, algBuilt, Memory.wf]

theorem inv_resetEngine (s : State) : Inv (resetEngine s) := inv_of_unread (inv_resetWith s.params) rfl

theorem errorNumber_ne_zero (e : ErrorCode) : errorNumber e ≠ 0 := by cases e <;> decide

theorem errorNumber_le (e : ErrorCode) : (errorNumber e).toNat ≤ 10 := by cases e <;> decide

/-- The error entry closes the cursor, and no error has code 0. -/
theorem inv_raiseError {s : State} (e : ErrorCode) (hi : Inv s) : Inv (raiseError e s) where
  streamOpen := by simp
  streamDone := by simp
  paddingIn := by simp
  errCause := by simpa using errorNumber_ne_zero e
  errCursor := by simp
  causeDefined := errorNumber_le e
  algIsBuilt := hi.algIsBuilt
  mmSorted := hi.mmSorted
  mmInside := hi.mmInside

theorem inv_clearError {s : State} (hi : Inv s) : Inv (clearError s) where
  streamOpen h := by
    obtain ⟨hv, -, hd, hb, hl⟩ := hi.streamOpen h
    exact ⟨hv, rfl, hd, hb, hl⟩
  streamDone := hi.streamDone
  paddingIn := hi.paddingIn
  errCause := by simp
  errCursor := by simp
  causeDefined := by simp
  algIsBuilt := hi.algIsBuilt
  mmSorted := hi.mmSorted
  mmInside := hi.mmInside

/-- A write inside MM keeps the form of memory. -/
theorem inv_memWrite {s : State} {a : Nat} {bs : List Byte} (hi : Inv s) (ha : a + bs.length ≤ s.params.mmSize) :
    Inv (setMM (memWrite s.mm a bs) s) :=
  { hi with
    mmSorted := memWrite_wf a bs hi.mmSorted
    mmInside := memWrite_below hi.mmInside ha }

theorem inv_initEffects {s : State} {alg : Alg} (hi : Inv s) (hb : algBuilt s.params.hasSha512 alg = true) :
    Inv (initEffects alg s) where
  streamOpen := by simp
  streamDone := by simp
  paddingIn := by simp
  errCause := by simp
  errCursor := by simp
  causeDefined := by simp
  algIsBuilt := hb
  mmSorted := hi.mmSorted
  mmInside := hi.mmInside

/-- A stream opens after INIT_EFFECTS, at byte 0 of a length in range. -/
theorem inv_openStream {s : State} {total : Word64} (hi : Inv s) (hv : s.algv = true) (he : s.err = false)
    (hl : total.toNat < 2 ^ 61) : Inv (openStream total s) where
  streamOpen _ := ⟨hv, he, rfl, Nat.zero_le _, hl⟩
  streamDone := by simp
  paddingIn := by simp
  errCause := hi.errCause
  errCursor := by simp [he]
  causeDefined := hi.causeDefined
  algIsBuilt := hi.algIsBuilt
  mmSorted := hi.mmSorted
  mmInside := hi.mmInside

/-! ### One block of a stream -/

/-- The bytes asked for never pass the declared length. -/
theorem bcnt_advance_toNat {s : State} (hb : s.bcnt.toNat ≤ s.mlen.toNat) :
    (s.bcnt + BitVec.ofNat 64 (stepBytes s)).toNat = s.bcnt.toNat + stepBytes s := by
  have hlt := s.mlen.isLt
  have hle : stepBytes s ≤ s.mlen.toNat - s.bcnt.toNat := Nat.min_le_right _ _
  rw [BitVec.toNat_add, BitVec.toNat_ofNat]
  omega

theorem bcnt_advance_le {s : State} (hb : s.bcnt.toNat ≤ s.mlen.toNat) :
    (s.bcnt + BitVec.ofNat 64 (stepBytes s)).toNat ≤ s.mlen.toNat := by
  have hle : stepBytes s ≤ s.mlen.toNat - s.bcnt.toNat := Nat.min_le_right _ _
  rw [bcnt_advance_toNat hb]
  omega

/-- Asking for less than a block is asking for all that is left. -/
theorem bcnt_advance_of_short {s : State} (hb : s.bcnt.toNat ≤ s.mlen.toNat)
    (hshort : stepBytes s < (algParams s.alg).B) : s.bcnt + BitVec.ofNat 64 (stepBytes s) = s.mlen := by
  have hn : stepBytes s = s.mlen.toNat - s.bcnt.toNat := by unfold stepBytes at hshort ⊢; omega
  apply BitVec.eq_of_toNat_eq
  rw [bcnt_advance_toNat hb]
  omega

/-- Once all bytes are in, the next block asks for none, which is less than a block. -/
theorem stepBytes_lt_of_all_read {s : State} (h : s.bcnt = s.mlen) : stepBytes s < (algParams s.alg).B := by
  have := blockSize_pos s.alg
  simp [stepBytes, h, this]

theorem lt_block_of_injects {alg : Alg} {pinj : Bool} {n : Nat} (h : injects alg pinj n = true) :
    n < (algParams alg).B := by
  simp only [injects, Bool.and_eq_true, decide_eq_true_eq] at h
  exact h.1

/-- The footer goes into no full block, as it takes room. -/
theorem lt_block_of_placesFooter {alg : Alg} {pinj : Bool} {n : Nat} (h : placesFooter alg pinj n = true) :
    n < (algParams alg).B := by
  have hF := footer_pos alg
  cases hinj : injects alg pinj n with
  | true => exact lt_block_of_injects hinj
  | false =>
    rw [placesFooter_of_not_injects hinj, decide_eq_true_eq] at h
    omega

/-- The footer follows the padding byte: it is in by this block at the latest. -/
theorem pinj_or_injects_of_placesFooter {alg : Alg} {pinj : Bool} {n : Nat} (h : placesFooter alg pinj n = true) :
    (pinj || injects alg pinj n) = true := by
  have hn := lt_block_of_placesFooter h
  cases pinj <;> simp [injects, hn]

theorem inv_advanceStream {s : State} {b : Bank} {n : Nat} (hi : Inv s) (hs : s.sact = true) (hn : n = stepBytes s) :
    Inv (advanceStream b n (injects s.alg s.pinj n) (placesFooter s.alg s.pinj n) s) := by
  obtain ⟨hv, he, hd, hb, hl⟩ := hi.streamOpen hs
  subst hn
  have allRead (h : stepBytes s < (algParams s.alg).B) := bcnt_advance_of_short hb h
  exact {
    streamOpen := fun h => by
      simp only [advanceStream_sact, hs, Bool.true_and, Bool.not_eq_true'] at h
      exact ⟨hv, he, by simp [hd, h], bcnt_advance_le hb, hl⟩
    streamDone := fun h => by
      simp only [advanceStream_sdone, hd, Bool.false_or] at h
      exact ⟨by simp [h], pinj_or_injects_of_placesFooter h, allRead (lt_block_of_placesFooter h)⟩
    paddingIn := fun h _ => by
      simp only [advanceStream_pinj, Bool.or_eq_true] at h
      obtain hp | hinj := h
      · exact allRead (stepBytes_lt_of_all_read (hi.paddingIn hp hs))
      · exact allRead (lt_block_of_injects hinj)
    errCause := hi.errCause
    errCursor := by simp [he]
    causeDefined := hi.causeDefined
    algIsBuilt := hi.algIsBuilt
    mmSorted := hi.mmSorted
    mmInside := hi.mmInside }

/-! ### Commands, host accesses and steps -/

theorem inv_of_asked {i : Instr} {s u : State} (hi : Inv s) (h : Asked i s u) : Inv u := by
  cases h with
  | nothing => exact hi
  | opened alg s x rest => exact inv_of_unread hi rfl
  | read s k x rest => exact inv_of_unread hi rfl

theorem completes_keeps_inv {i : Instr} {s t : State} (hi : Inv s) (h : Completes i s t) : Inv t := by
  cases h with
  | nop => exact hi
  | init built => exact inv_initEffects hi built
  | pad noErr selected srcIn dstIn read =>
    refine inv_of_unread (inv_memWrite hi (a := dstAddr s) ?_) rfl
    rwa [pad_length, memRead_length read]
  | compress => exact inv_of_unread hi rfl
  | hashbuf built srcIn read => exact inv_of_unread (inv_initEffects hi built) rfl
  | @sbegin alg s x rest built answered readable known inRange =>
    have hask : Inv (tookOpen x rest s) := inv_of_unread hi rfl
    exact inv_openStream (inv_initEffects hask built) rfl rfl inRange
  | @sstep s bs rest noErr streaming answered delivered =>
    have hask : Inv (tookRead (stepBytes s) (.data bs) rest s) := inv_of_unread hi rfl
    exact inv_advanceStream hask streaming delivered
  | bswap noErr whole srcIn read =>
    refine inv_memWrite hi ?_
    rwa [swapBytes_length (by rwa [memRead_length read]), memRead_length read]
  | stdig noErr selected noStream dstIn => exact inv_memWrite hi (by rwa [digest_length])
  | clrerr => exact inv_clearError hi

theorem exec_keeps_inv {i : Instr} {s t : State} (hi : Inv s) (h : exec i s = .next t) : Inv t := by
  cases exec_executes h with
  | dropped => exact hi
  | raised e asked => exact inv_raiseError e (inv_of_asked hi asked)
  | completed done => exact completes_keeps_inv hi done

theorem commandWrite_keeps_inv {c : Word32} {s t : State} (hi : Inv s) (h : commandWrite c s = .next t) : Inv t := by
  obtain rfl | ⟨e, -, rfl⟩ | ⟨i, -, hx⟩ := commandWrite_next h
  · exact hi
  · exact inv_raiseError e hi
  · exact exec_keeps_inv hi hx

theorem regWrite_keeps_inv {s : State} (o : Nat) (v : Word32) (hi : Inv s) : Inv (regWrite s o v) := by
  obtain h | h | h | ⟨-, i, w, -, h⟩ | h := regWrite_cases s o v <;> rw [h] <;> exact inv_of_unread hi rfl

theorem hostAccess_keeps_inv {a : HostAccess} {s t : State} (hi : Inv s) (h : hostAccess a s = .next t) : Inv t := by
  obtain ⟨v, -, hc⟩ | ⟨o, v, -, -, -, rfl⟩ | ⟨o, -, -, rfl⟩ | ⟨x, bs, -, hr, rfl⟩ | ⟨x, n, bs, -, -, -, rfl⟩ |
    ⟨src, -, rfl⟩ | ⟨-, rfl⟩ := hostAccess_next h
  · exact commandWrite_keeps_inv hi hc
  · exact regWrite_keeps_inv o v hi
  · exact inv_of_unread hi rfl
  · exact inv_memWrite hi hr
  · exact inv_of_unread hi rfl
  · exact inv_of_unread hi rfl
  · exact inv_resetEngine s

theorem step_keeps_inv {s t : State} (hi : Inv s) (h : step s = .next t) : Inv t := by
  obtain ⟨-, rfl⟩ | ⟨a, rest, -, ha⟩ := hostStep_next h
  · exact hi
  · exact hostAccess_keeps_inv (inv_of_unread hi rfl) ha

/-- Settles O49: every field that the invariants read is zero or empty at reset. -/
theorem invariantAtReset : Obligations.InvariantAtReset := by
  unfold Obligations.InvariantAtReset
  exact inv_resetWith

/-- Settles O50: a step is one host access, and each access and each way a command can go on keeps the invariants. -/
theorem stepKeepsInvariant : Obligations.StepKeepsInvariant := by
  unfold Obligations.StepKeepsInvariant
  intro s t hi h
  exact step_keeps_inv hi h

end Sys2Proof.Machine
end

section
/-! SUPPORT. What each command may write (46_hasher R295) and which of them set and clear each flag (10_state R53): read
off the ways in which a command can go on. -/

namespace Sys2Proof.Machine

theorem isStarting_of_isGated {i : Instr} (h : isGated i = true) : isStarting i = false := by
  revert h
  cases i <;> simp [isGated, isStarting]

theorem ne_of_canRaise {i : Instr} (h : canRaise i = true) : i ≠ .nop ∧ i ≠ .clrerr := by
  constructor <;> rintro rfl <;> cases h

/-- Settles O53: a dropped command writes nothing, an error writes the error state and the cursor, and a completed
command writes what its row of R295 says. -/
theorem commandsWriteOnly : Obligations.CommandsWriteOnly := by
  unfold Obligations.CommandsWriteOnly
  intro i s t h
  cases exec_executes h with
  | dropped => simp
  | raised e asked => cases asked <;> simp
  | completed done => cases done <;> simp [isStarting]

/-- Settles O54: a dropped command leaves every flag, an error closes the cursor, and a completed command moves only the
flags of its row of R53. -/
theorem flagWriters : Obligations.FlagWriters := by
  unfold Obligations.FlagWriters
  intro i s t h raised
  cases exec_executes h with
  | dropped errorPending gate =>
    have notStarting := isStarting_of_isGated gate
    simp_all [raised]
  | raised e asked row passed =>
    have hi := ne_of_canRaise row
    cases asked <;> simp [raised, passed, hi]
  | completed done =>
    cases done
    case sstep noErr streaming answered delivered => simp +contextual [raised, isStarting, noErr, streaming]
    all_goals simp_all [isStarting, raised]

end Sys2Proof.Machine
end

section
/-! SUPPORT. A CMD write as a step (10_state R46, 60_exceptions R333): the gate that the write makes and the gate inside
the command agree, because decoding keeps OP. -/

namespace Sys2Proof

theorem opcode_startingInstr {op : BitVec 8} (alg : Alg) (h : op = 0x01 ∨ op = 0x04 ∨ op = 0x05) :
    opcode (startingInstr op alg) = op := by
  obtain rfl | rfl | rfl := h <;> rfl

/-- A word decodes to a command of its own OP. -/
theorem opcode_of_decode {has : Bool} {c : Word32} {i : Instr} (h : decode has c = .ok i) : opcode i = opField c := by
  simp only [decode] at h
  split at h; · cases h
  split at h; · cases h
  split at h
  next hop =>
    split at h; · cases h
    split at h; · cases h
    split at h
    · cases h; exact opcode_startingInstr _ hop
    · cases h
  split at h
  next hop =>
    split at h; · cases h
    split at h
    · cases h
    · cases h; exact hop.symm
  split at h; · cases h
  split at h
  · cases h
  next hi => cases h; exact (plainInstr_eq_some hi).1

end Sys2Proof

namespace Sys2Proof.Machine

theorem ungatedOp_opcode (i : Instr) : ungatedOp (opcode i) = !isGated i := by cases i <;> rfl

/-- A gated command by itself does nothing while ERR = 1. -/
theorem exec_of_gated {i : Instr} {s : State} (he : s.err = true) (hg : isGated i = true) : exec i s = .next s := by
  cases i with
  | pad | compress | sstep | bswap | stdig => exact gated_of_err he
  | nop | init | hashbuf | sbegin | clrerr => cases hg

/-- A CMD write of a word that decodes is the decoded command, in every state. -/
theorem commandWrite_of_decode {c : Word32} {s : State} {i : Instr} (h : decode s.params.hasSha512 c = .ok i) :
    commandWrite c s = exec i s := by
  have hdrop : gateDrops s c = (s.err && isGated i) := by
    rw [gateDrops, ← opcode_of_decode h, ungatedOp_opcode, Bool.not_not]
  unfold commandWrite
  split
  next hd =>
    rw [hdrop, Bool.and_eq_true] at hd
    exact (exec_of_gated hd.1 hd.2).symm
  next => rw [h]

/-- A step whose next access is a CMD write. -/
theorem step_of_command {s : State} {c : Word32} {rest : List HostAccess} (h : s.pending = .regWrite 0 c :: rest) :
    step s = commandWrite c (setReply .nothing (setPending rest s)) := hostStep_of_pending h

/-- Settles O5: a word that decodes gates as its command does. -/
theorem stepRunsDecodedCommand : Obligations.StepRunsDecodedCommand := by
  unfold Obligations.StepRunsDecodedCommand
  intro s c rest h
  exact ⟨step_of_command h, fun i hi => (step_of_command h).trans (commandWrite_of_decode hi)⟩

end Sys2Proof.Machine
end


section
/-! SUPPORT. The halves of a 64-bit register (10_state R34, R48), the registers of a bank, and concatenation as
arithmetic. -/

namespace Sys2Proof.Machine

/-! ### Halves -/

theorem toNat_append_eq {m n : Nat} (x : BitVec m) (y : BitVec n) : (x ++ y).toNat = x.toNat * 2 ^ n + y.toNat := by
  rw [BitVec.toNat_append, ← Nat.shiftLeft_add_eq_or_of_lt y.isLt, Nat.shiftLeft_eq]

theorem lowHalf_toNat (v : Word64) : (lowHalf v).toNat = v.toNat % 2 ^ 32 := by
  simp [lowHalf, BitVec.extractLsb'_toNat]

theorem highHalf_toNat (v : Word64) : (highHalf v).toNat = v.toNat / 2 ^ 32 := by
  have := v.isLt
  simp only [highHalf, BitVec.extractLsb'_toNat, Nat.shiftRight_eq_div_pow]
  omega

@[simp] theorem highHalf_append_lowHalf (v : Word64) : highHalf v ++ lowHalf v = v := by
  apply BitVec.eq_of_toNat_eq
  rw [toNat_append_eq, highHalf_toNat, lowHalf_toNat]
  omega

theorem highHalf_eq_zero_iff (v : Word64) : highHalf v = 0 ↔ v.toNat < 2 ^ 32 := by
  rw [← BitVec.toNat_inj, highHalf_toNat]
  exact Nat.div_eq_zero_iff_lt (by decide)

/-- A 32-bit word zero-extended. -/
@[simp] theorem highHalf_setWidth (x : Word32) : highHalf (x.setWidth 64) = 0 := by
  rw [highHalf_eq_zero_iff, BitVec.toNat_setWidth_of_le (by decide)]
  exact x.isLt

theorem setWidth_eq_lowHalf (v : Word64) : v.setWidth 32 = lowHalf v := BitVec.setWidth_eq_extractLsb' (by decide)

@[simp] theorem lowHalf_replaceLow (old : Word64) (v : Word32) : lowHalf (replaceLow old v) = v :=
  BitVec.extractLsb'_append_eq_right

@[simp] theorem highHalf_replaceLow (old : Word64) (v : Word32) : highHalf (replaceLow old v) = highHalf old :=
  BitVec.extractLsb'_append_eq_left

@[simp] theorem lowHalf_replaceHigh (old : Word64) (v : Word32) : lowHalf (replaceHigh old v) = lowHalf old :=
  BitVec.extractLsb'_append_eq_right

@[simp] theorem highHalf_replaceHigh (old : Word64) (v : Word32) : highHalf (replaceHigh old v) = v :=
  BitVec.extractLsb'_append_eq_left

/-! ### Registers of a bank -/

theorem bankReg_setIfInBounds (h : Bank) (v : Word64) {i k : Nat} (hk : k < 8) :
    bankReg (h.setIfInBounds i v) k = if i = k then v else bankReg h k := by
  rw [bankReg_lt _ _ hk, bankReg_lt _ _ hk, Vector.getElem_setIfInBounds]

theorem bankReg_resetWith (p : Params) {i : Nat} (hi : i < 8) : bankReg (State.resetWith p).h i = 0 := by
  interval_cases i <;> rfl

end Sys2Proof.Machine
end

section
/-! SUPPORT. The register space (10_state R56): what a read of each offset returns and what a write to each offset
does. -/

namespace Sys2Proof.Machine

/-! ### Reads -/

theorem statusWord_toNat (s : State) :
    (statusWord s).toNat = s.err.toNat + 2 * s.algv.toNat + 4 * s.sact.toNat + 8 * s.pinj.toNat +
      16 * s.sdone.toNat + 32 * (algCode s.alg).toNat := by
  simp only [statusWord, toNat_append_eq, BitVec.toNat_ofBool, BitVec.ofNat_eq_ofNat, BitVec.toNat_ofNat]
  omega

theorem causeWord_toNat (s : State) : (causeWord s).toNat = s.cause.toNat := by
  rw [causeWord, BitVec.toNat_setWidth_of_le (by decide)]

theorem idWord_toNat (p : Params) : (idWord p).toNat = 1 + 256 * p.hasSha512.toNat := by
  simp only [idWord, toNat_append_eq, BitVec.toNat_ofBool, BitVec.ofNat_eq_ofNat, BitVec.toNat_ofNat]
  omega

theorem mmSizeWord_toNat {p : Params} (hp : p.wf) : (mmSizeWord p).toNat = p.mmSize := by
  obtain ⟨-, hle⟩ := hp
  simp only [mmSizeWord, BitVec.toNat_ofNat]
  omega

theorem regRead_id (s : State) : regRead s 0x00C = idWord s.params := rfl

theorem regRead_mmSize (s : State) : regRead s 0x010 = mmSizeWord s.params := rfl

theorem regRead_bank_low (s : State) {i : Nat} (hi : i < 8) : regRead s (0x080 + 8 * i) = lowHalf (bankReg s.h i) := by
  have hidx : (0x080 + 8 * i - 0x080) / 8 = i := by omega
  simp (disch := omega) only [regRead, if_neg, if_pos, hidx]

theorem regRead_bank_high (s : State) {i : Nat} (hi : i < 8) :
    regRead s (0x084 + 8 * i) = highHalf (bankReg s.h i) := by
  have hidx : (0x084 + 8 * i - 0x080) / 8 = i := by omega
  simp (disch := omega) only [regRead, if_neg, if_pos, hidx]

theorem regRead_digest (s : State) {k : Nat} (hk : k < 16) : regRead s (0x0C0 + 4 * k) = digestWord s k := by
  have hidx : (0x0C0 + 4 * k - 0x0C0) / 4 = k := by omega
  simp (disch := omega) only [regRead, if_neg, if_pos, hidx]

theorem regRead_reserved (s : State) {o : Nat} (h : o = 0x014 ∨ o = 0x018 ∨ o = 0x01C ∨ o = 0x02C ∨
    (0x048 ≤ o ∧ o ≤ 0x07C) ∨ 0x100 ≤ o) : regRead s o = 0 := by
  simp (disch := omega) only [regRead, if_neg]

/-- Settles O41: each offset reads its register, and the packed words are read as numbers. -/
theorem registerReads : Obligations.RegisterReads := by
  unfold Obligations.RegisterReads
  intro s hp
  refine ⟨⟨rfl, statusWord_toNat s, causeWord_toNat s, idWord_toNat s.params, mmSizeWord_toNat hp, rfl, rfl, rfl⟩,
    ⟨highHalf_append_lowHalf s.plen, highHalf_append_lowHalf s.mlen, highHalf_append_lowHalf s.bcnt⟩,
    fun i hi => ?_, fun o _ ho => regRead_reserved s ho⟩
  rw [regRead_bank_high s hi, regRead_bank_low s hi, highHalf_append_lowHalf]

/-! ### Writes -/

theorem step_of_regWrite {s : State} {o : Nat} {v : Word32} {rest : List HostAccess}
    (h : s.pending = .regWrite o v :: rest) (hv : validOffset o = true) (h0 : o ≠ 0) :
    step s = .next (regWrite (setReply .nothing (setPending rest s)) o v) := by
  rw [step, hostStep_of_pending h]
  simp [hostAccess, hv, h0]

theorem regWrite_bank_low (s : State) (v : Word32) {i : Nat} (hi : i < 8) :
    regWrite s (0x080 + 8 * i) v = setHReg i (replaceLow (bankReg s.h i) v) s := by
  have hidx : (0x080 + 8 * i - 0x080) / 8 = i := by omega
  simp (disch := omega) only [regWrite, if_neg, if_pos, hidx]

theorem regWrite_bank_high (s : State) (v : Word32) {i : Nat} (hi : i < 8) :
    regWrite s (0x084 + 8 * i) v = setHReg i (replaceHigh (bankReg s.h i) v) s := by
  have hidx : (0x084 + 8 * i - 0x080) / 8 = i := by omega
  simp (disch := omega) only [regWrite, if_neg, if_pos, hidx]

theorem regWrite_ignored (s : State) (v : Word32) {o : Nat}
    (h : o < 0x020 ∨ o = 0x02C ∨ (0x030 ≤ o ∧ o < 0x080) ∨ 0x0C0 ≤ o) : regWrite s o v = s := by
  simp (disch := omega) only [regWrite, if_neg]

theorem setHReg_bankReg_self (s : State) (v : Word64) {i : Nat} (hi : i < 8) : bankReg (setHReg i v s).h i = v := by
  rw [setHReg_h, bankReg_setIfInBounds _ _ hi, if_pos rfl]

theorem setHReg_bankReg_ne (s : State) (v : Word64) {i k : Nat} (hk : k < 8) (hne : k ≠ i) :
    bankReg (setHReg i v s).h k = bankReg s.h k := by
  rw [setHReg_h, bankReg_setIfInBounds _ _ hk, if_neg hne.symm]

/-- Settles O42: the step is the register write, and a half of a bank register replaced leaves the other half and the
other registers. -/
theorem registerWrites : Obligations.RegisterWrites := by
  unfold Obligations.RegisterWrites
  intro s o v rest hpend hvalid h0
  rw [step_of_regWrite hpend hvalid h0]
  refine ⟨?_, ?_, ?_, ?_, ?_, ?_⟩
  · rintro rfl; rfl
  · rintro rfl; rfl
  · rintro rfl; rfl
  · rintro i hi rfl
    rw [regWrite_bank_low _ _ hi]
    refine ⟨_, rfl, rfl, ?_, ?_, fun k hk hne => setHReg_bankReg_ne _ _ hk hne⟩ <;>
      rw [setHReg_bankReg_self _ _ hi] <;> simp
  · rintro i hi rfl
    rw [regWrite_bank_high _ _ hi]
    refine ⟨_, rfl, rfl, ?_, ?_, fun k hk hne => setHReg_bankReg_ne _ _ hk hne⟩ <;>
      rw [setHReg_bankReg_self _ _ hi] <;> simp
  · intro ho
    rw [regWrite_ignored _ _ ho]
    rfl

/-! ### The DIGEST window -/

theorem digestWord_of_hidden {s : State} (k : Nat) (h : s.err = true ∨ s.algv = false ∨ s.sact = true) :
    digestWord s k = 0 := by
  have hh : digestShown s = false := by obtain h | h | h := h <;> simp [digestShown, h]
  simp [digestWord, hh]

/-- Zeros put behind a byte sequence read as the default does. -/
theorem getD_append_zeros (xs : List Byte) (n j : Nat) : (xs ++ zeros n).getD j 0 = xs.getD j 0 := by
  obtain h | h := Nat.lt_or_ge j xs.length
  · exact List.getD_append xs _ 0 j h
  · rw [List.getD_append_right xs _ 0 j h, List.getD_eq_default _ _ h]
    exact (List.getD_eq_getElem?_getD).trans (List.getElem?_getD_replicate_default_eq _ _ _)

theorem take_four_drop (xs : List Byte) {j : Nat} (h : j + 4 ≤ xs.length) :
    (xs.drop j).take 4 = [xs.getD j 0, xs.getD (j + 1) 0, xs.getD (j + 2) 0, xs.getD (j + 3) 0] := by
  rw [List.drop_eq_getElem_cons (by omega), List.drop_eq_getElem_cons (by omega), List.drop_eq_getElem_cons (by omega),
    List.drop_eq_getElem_cons (by omega)]
  simp only [List.take_succ_cons, List.take_zero]
  rw [List.getD_eq_getElem _ _ (by omega), List.getD_eq_getElem _ _ (by omega), List.getD_eq_getElem _ _ (by omega),
    List.getD_eq_getElem _ _ (by omega)]

/-- Four bytes packed with the first in the low bits. -/
theorem toNat_append_four (b0 b1 b2 b3 : Byte) : (b3 ++ b2 ++ b1 ++ b0).toNat = leValue [b0, b1, b2, b3] := by
  simp only [toNat_append_eq, leValue]
  omega

theorem digestWord_of_defined {s : State} {k : Nat} (hk : k < 16) (h : digestDefined s) :
    (digestWord s k).toNat = leValue ((digest s.alg s.h ++ zeros 64).drop (4 * k) |>.take 4) := by
  obtain ⟨he, ha, hs⟩ := h
  have hshown : digestShown s = true := by simp [digestShown, he, ha, hs]
  rw [digestWord, if_pos hshown, toNat_append_four, take_four_drop _ (by simp; omega)]
  simp only [digestByte, getD_append_zeros]

/-- Settles O43: a hidden window is zero, and a shown word packs four bytes of the digest with zeros behind it. -/
theorem digestWindow : Obligations.DigestWindow := by
  unfold Obligations.DigestWindow
  intro s k hk
  rw [regRead_digest s hk]
  exact ⟨digestWord_of_hidden k, digestWord_of_defined hk⟩

/-! ### Constants and reset values -/

/-- Settles O52: no step changes the parameters, and ID and MMSIZE read nothing else. -/
theorem parametersNeverChange : Obligations.ParametersNeverChange := by
  unfold Obligations.ParametersNeverChange
  intro s t h
  have hp := step_params h
  simp only [regRead_id, regRead_mmSize, hp, and_self]

/-- Settles O47: every register is zero at reset, ID and MMSIZE read the parameters, and the DIGEST window is hidden. -/
theorem resetValues : Obligations.ResetValues := by
  unfold Obligations.ResetValues
  intro p hp
  refine ⟨fun i hi => bankReg_resetWith p hi, rfl, rfl, rfl, rfl, rfl, rfl, rfl, rfl, rfl, rfl, rfl, rfl, rfl,
    idWord_toNat p, mmSizeWord_toNat hp, fun k hk => ?_, fun a => rfl⟩
  rw [regRead_digest _ hk]
  exact digestWord_of_hidden k (.inr (.inl rfl))

end Sys2Proof.Machine
end

section
/-! SUPPORT. The high halves of the state words (10_state R33, R52 (f)): a block's update reads only the low halves under
a 32-bit algorithm and leaves the high halves zero, so only the host can set one. -/

namespace Sys2Proof.Machine

/-! ### The words loaded from the bank and stored to it -/

/-- The eight words read the low halves alone. -/
theorem loadWork8_eq_of_lowHalf {h k : Bank} (hl : ∀ i, i < 8 → lowHalf (bankReg h i) = lowHalf (bankReg k i)) :
    loadWork8 32 h = loadWork8 32 k := by
  have hw (i : Nat) (hi : i < 8) : h[i].setWidth 32 = k[i].setWidth 32 := by
    rw [setWidth_eq_lowHalf, setWidth_eq_lowHalf, ← bankReg_lt h i hi, ← bankReg_lt k i hi, hl i hi]
  simp [loadWork8, hw]

theorem loadWork5_eq_of_lowHalf {h k : Bank} (hl : ∀ i, i < 5 → lowHalf (bankReg h i) = lowHalf (bankReg k i)) :
    loadWork5 h = loadWork5 k := by
  have hw (i : Nat) (hi : i < 5) : h[i].setWidth 32 = k[i].setWidth 32 := by
    rw [setWidth_eq_lowHalf, setWidth_eq_lowHalf, ← bankReg_lt h i (by omega), ← bankReg_lt k i (by omega), hl i hi]
  simp [loadWork5, hw]

theorem highHalf_storeWork8 (r : Work8 32) {i : Nat} (hi : i < 8) : highHalf (bankReg (storeWork8 r) i) = 0 := by
  interval_cases i <;> exact highHalf_setWidth _

theorem highHalf_storeWork5 (old : Bank) (r : Work5) {i : Nat} (hi : i < 5) :
    highHalf (bankReg (storeWork5 old r) i) = 0 := by
  interval_cases i <;> exact highHalf_setWidth _

/-- Five words stored leave the registers past them. -/
theorem bankReg_storeWork5_past (old : Bank) (r : Work5) {i : Nat} (h5 : 5 ≤ i) (hi : i < 8) :
    bankReg (storeWork5 old r) i = bankReg old i := by
  rw [bankReg_lt old i hi]
  interval_cases i <;> rfl

/-- The five registers stored do not depend on the bank before. -/
theorem bankReg_storeWork5_below (h k : Bank) (r : Work5) {i : Nat} (hi : i < 5) :
    bankReg (storeWork5 h r) i = bankReg (storeWork5 k r) i := by
  interval_cases i <;> rfl

/-! ### A block's update -/

theorem process256_eq_of_lowHalf {h k : Bank} (block : List Byte)
    (hl : ∀ i, i < 8 → lowHalf (bankReg h i) = lowHalf (bankReg k i)) : process256 h block = process256 k block := by
  rw [process256, process256, loadWork8_eq_of_lowHalf hl]

theorem process160_eq_of_lowHalf {h k : Bank} (block : List Byte)
    (hl : ∀ i, i < 5 → lowHalf (bankReg h i) = lowHalf (bankReg k i)) {i : Nat} (hi : i < 5) :
    bankReg (process160 h block) i = bankReg (process160 k block) i := by
  rw [process160, process160, loadWork5_eq_of_lowHalf hl]
  exact bankReg_storeWork5_below h k _ hi

/-- The registers past the algorithm's state words stay (R33, R239). -/
theorem bankReg_processBlock_past (alg : Alg) (h : Bank) (block : List Byte) {i : Nat} (hn : (algParams alg).nH ≤ i)
    (hi : i < 8) : bankReg (processBlock alg h block) i = bankReg h i := by
  cases alg with
  | sha224 | sha256 | sha512 => exact absurd hi (Nat.not_lt.2 hn)
  | ripemd160 => exact bankReg_storeWork5_past h _ hn hi

/-- The high halves of a bank's state words are clear for an algorithm (R52 (f)). -/
def HighClear (alg : Alg) (h : Bank) : Prop :=
  alg ≠ .sha512 → ∀ i, i < (algParams alg).nH → highHalf (bankReg h i) = 0

/-- R52 (f) of a state is a matter of its bank and its algorithm. -/
theorem highHalvesClear_iff (s : State) : HighHalvesClear s ↔ HighClear s.alg s.h := Iff.rfl

theorem processBlock_highClear (alg : Alg) (h : Bank) (block : List Byte) : HighClear alg (processBlock alg h block) := by
  intro h32 i hi
  cases alg with
  | sha224 | sha256 => exact highHalf_storeWork8 _ hi
  | ripemd160 => exact highHalf_storeWork5 h _ hi
  | sha512 => exact absurd rfl h32

/-- Under a 32-bit algorithm the state words after a block depend on the low halves before it (R212, R239). -/
theorem bankReg_processBlock_of_lowHalf {alg : Alg} {h k : Bank} (block : List Byte) (h32 : alg ≠ .sha512)
    (hl : ∀ i, i < (algParams alg).nH → lowHalf (bankReg h i) = lowHalf (bankReg k i)) {i : Nat}
    (hi : i < (algParams alg).nH) : bankReg (processBlock alg h block) i = bankReg (processBlock alg k block) i := by
  cases alg with
  | sha224 | sha256 => exact congrArg (bankReg · i) (process256_eq_of_lowHalf block hl)
  | ripemd160 => exact process160_eq_of_lowHalf block hl hi
  | sha512 => exact absurd rfl h32

/-- Settles O39: the three parts are read off the words loaded and the words stored. -/
theorem processBlockAndHighHalves : Obligations.ProcessBlockAndHighHalves := by
  unfold Obligations.ProcessBlockAndHighHalves
  intro alg h block
  refine ⟨fun i hn hi => bankReg_processBlock_past alg h block hn hi, fun h32 => ⟨fun i hi => ?_, fun k hl i hi => ?_⟩⟩
  · exact (highHalf_eq_zero_iff _).1 (processBlock_highClear alg h block h32 i hi)
  · exact bankReg_processBlock_of_lowHalf block h32 hl hi

/-! ### The high halves through a step -/

theorem processBlocks_highClear {alg : Alg} {h : Bank} (bs : List Byte) (hc : HighClear alg h) :
    HighClear alg (processBlocks alg h bs) := by
  unfold processBlocks
  induction groups (algParams alg).B bs generalizing h with
  | nil => exact hc
  | cons block blocks ih => exact ih (processBlock_highClear alg h block)

theorem initialState_highClear (alg : Alg) : HighClear alg (initialState alg) := by
  intro h32
  cases alg with
  | sha224 | sha256 | ripemd160 => decide
  | sha512 => exact absurd rfl h32

theorem resetWith_highHalvesClear (p : Params) : HighHalvesClear (State.resetWith p) := by
  intro _ i hi
  rw [bankReg_resetWith p hi]
  rfl

theorem highHalvesClear_of_eq {s t : State} (hc : HighHalvesClear s) (halg : t.alg = s.alg) (hh : t.h = s.h) :
    HighHalvesClear t := by
  rw [highHalvesClear_iff] at hc ⊢
  rwa [halg, hh]

theorem completes_keeps_highHalvesClear {i : Instr} {s t : State} (hc : HighHalvesClear s) (h : Completes i s t) :
    HighHalvesClear t := by
  cases h with
  | nop | pad | bswap | stdig | clrerr => exact highHalvesClear_of_eq hc rfl rfl
  | init | sbegin => exact initialState_highClear _
  | compress => exact processBlocks_highClear _ hc
  | hashbuf => exact processBlocks_highClear _ (initialState_highClear _)
  | sstep => exact processBlock_highClear _ _ _

theorem exec_keeps_highHalvesClear {i : Instr} {s t : State} (hc : HighHalvesClear s) (h : exec i s = .next t) :
    HighHalvesClear t := by
  cases exec_executes h with
  | dropped => exact hc
  | raised e asked => cases asked <;> exact highHalvesClear_of_eq hc rfl rfl
  | completed done => exact completes_keeps_highHalvesClear hc done

theorem commandWrite_keeps_highHalvesClear {c : Word32} {s t : State} (hc : HighHalvesClear s)
    (h : commandWrite c s = .next t) : HighHalvesClear t := by
  obtain rfl | ⟨e, -, rfl⟩ | ⟨i, -, hx⟩ := commandWrite_next h
  · exact hc
  · exact highHalvesClear_of_eq hc rfl rfl
  · exact exec_keeps_highHalvesClear hc hx

/-- A register write outside the window of H leaves the bank. -/
theorem regWrite_keeps_highHalvesClear {s : State} {o : Nat} {v : Word32} (hc : HighHalvesClear s)
    (hw : writesBank (.regWrite o v) = false) : HighHalvesClear (regWrite s o v) := by
  obtain h | h | h | ⟨⟨hlo, hhi⟩, -⟩ | h := regWrite_cases s o v
  · rw [h]; exact highHalvesClear_of_eq hc rfl rfl
  · rw [h]; exact highHalvesClear_of_eq hc rfl rfl
  · rw [h]; exact highHalvesClear_of_eq hc rfl rfl
  · simp [writesBank, hlo, hhi] at hw
  · rwa [h]

theorem hostAccess_keeps_highHalvesClear {a : HostAccess} {s t : State} (hc : HighHalvesClear s)
    (hw : writesBank a = false) (h : hostAccess a s = .next t) : HighHalvesClear t := by
  obtain ⟨v, -, hx⟩ | ⟨o, v, rfl, -, -, rfl⟩ | ⟨o, -, -, rfl⟩ | ⟨x, bs, -, -, rfl⟩ | ⟨x, n, bs, -, -, -, rfl⟩ |
    ⟨src, -, rfl⟩ | ⟨-, rfl⟩ := hostAccess_next h
  · exact commandWrite_keeps_highHalvesClear hc hx
  · exact regWrite_keeps_highHalvesClear hc hw
  · exact highHalvesClear_of_eq hc rfl rfl
  · exact highHalvesClear_of_eq hc rfl rfl
  · exact highHalvesClear_of_eq hc rfl rfl
  · exact highHalvesClear_of_eq hc rfl rfl
  · exact highHalvesClear_of_eq (resetWith_highHalvesClear s.params) rfl rfl

/-- Settles O51: of the accesses that leave the window of H alone only a command writes H, and what it writes is clear. -/
theorem stepKeepsHighHalvesClear : Obligations.StepKeepsHighHalvesClear := by
  unfold Obligations.StepKeepsHighHalvesClear
  refine ⟨resetWith_highHalvesClear, fun s t hc hw h => ?_⟩
  obtain ⟨-, rfl⟩ | ⟨a, rest, hpend, ha⟩ := hostStep_next h
  · exact hc
  · have hc' : HighHalvesClear (setReply .nothing (setPending rest s)) := highHalvesClear_of_eq hc rfl rfl
    exact hostAccess_keeps_highHalvesClear hc' (hw a rest hpend) ha

end Sys2Proof.Machine
end

section
/-! SUPPORT. The host's reads and its port on MM (20_memory R72, R75, R79): what each access does inside its range, which
accesses are refused, and both as steps of the machine. -/

namespace Sys2Proof.Machine

/-! ### The accesses -/

theorem validOffset_eq_false {o : Nat} (h : o % 4 ≠ 0 ∨ 0xFFC < o) : validOffset o = false := by
  rw [validOffset, Bool.and_eq_false_iff]
  exact h.imp beq_false_of_ne (fun hlt => decide_eq_false (Nat.not_le_of_lt hlt))

theorem hostAccess_regRead_of_valid {s : State} {o : Nat} (h : validOffset o = true) :
    hostAccess (.regRead o) s = .next (setReply (.reg (regRead s o)) s) := by simp [hostAccess, h]

theorem hostAccess_regRead_of_invalid {s : State} {o : Nat} (h : validOffset o = false) :
    hostAccess (.regRead o) s = .refused (.registerAccess o 32) := by simp [hostAccess, h]

theorem hostAccess_regWrite_of_invalid {s : State} {o : Nat} (v : Word32) (h : validOffset o = false) :
    hostAccess (.regWrite o v) s = .refused (.registerAccess o 32) := by simp [hostAccess, h]

theorem hostMMRead_of_read {s : State} {a n : Nat} {bs : List Byte} (ha : a + n ≤ s.params.mmSize)
    (hr : memRead s.mm a n = .ok bs) : hostMMRead a n s = .next (setReply (.bytes bs) s) := by
  simp [hostMMRead, (inMM_eq_true s a n).2 ha, withBytes_of_read hr]

theorem hostMMRead_of_outside {s : State} {a n : Nat} (h : s.params.mmSize < a + n) :
    hostMMRead a n s = .refused (.hostPortRange a n) := by simp [hostMMRead, (inMM_eq_false s a n).2 h]

theorem hostMMWrite_of_inside {s : State} {a : Nat} {bs : List Byte} (h : a + bs.length ≤ s.params.mmSize) :
    hostMMWrite a bs s = .next (setMM (memWrite s.mm a bs) s) := by
  simp [hostMMWrite, (inMM_eq_true s a bs.length).2 h]

theorem hostMMWrite_of_outside {s : State} {a : Nat} {bs : List Byte} (h : s.params.mmSize < a + bs.length) :
    hostMMWrite a bs s = .refused (.hostPortRange a bs.length) := by
  simp [hostMMWrite, (inMM_eq_false s a bs.length).2 h]

/-! ### Reads and writes inside the spec, as steps -/

theorem memRead_of_holdsBytes {s : State} {a : Nat} {bs : List Byte} (h : holdsBytes s a bs) :
    memRead s.mm a bs.length = .ok bs := (memRead_ok_iff s.mm a bs.length bs).2 ⟨rfl, h⟩

theorem step_of_regRead {s : State} {o : Nat} {rest : List HostAccess} (h : s.pending = .regRead o :: rest)
    (hv : validOffset o = true) : step s = .next { s with pending := rest, reply := .reg (regRead s o) } :=
  (hostStep_of_pending h).trans (hostAccess_regRead_of_valid hv)

theorem step_of_mmRead {s : State} {a n : Nat} {bs : List Byte} {rest : List HostAccess}
    (h : s.pending = .mmRead a n :: rest) (ha : a + n ≤ s.params.mmSize) (hr : memRead s.mm a n = .ok bs) :
    step s = .next { s with pending := rest, reply := .bytes bs } :=
  (hostStep_of_pending h).trans (hostMMRead_of_read ha hr)

theorem step_of_mmWrite {s : State} {a : Nat} {bs : List Byte} {rest : List HostAccess}
    (h : s.pending = .mmWrite a bs :: rest) (ha : a + bs.length ≤ s.params.mmSize) :
    step s = .next { s with mm := memWrite s.mm a bs, pending := rest, reply := .nothing } :=
  (hostStep_of_pending h).trans (hostMMWrite_of_inside ha)

/-- Settles O44: the step of each read takes it from the waiting accesses and sets the reply. -/
theorem readsHaveNoEffect : Obligations.ReadsHaveNoEffect := by
  unfold Obligations.ReadsHaveNoEffect
  intro s rest
  exact ⟨fun o hpend hv => step_of_regRead hpend hv,
    fun a bs hpend ha hb => step_of_mmRead hpend ha (memRead_of_holdsBytes hb)⟩

/-- Settles O45: the read steps from the state that the write leaves, where the range reads as the bytes written. -/
theorem hostPortReadAfterWrite : Obligations.HostPortReadAfterWrite := by
  unfold Obligations.HostPortReadAfterWrite
  intro s a bs rest hpend ha
  have hwrite := step_of_mmWrite hpend ha
  have hback := memRead_memWrite s.mm a bs
  exact ⟨_, { s with mm := memWrite s.mm a bs, pending := rest, reply := .bytes bs }, hwrite, rfl,
    fun x hx => memByte_memWrite_outside hx, step_of_mmRead rfl ha hback, rfl, rfl⟩

/-! ### Accesses outside the spec, as steps -/

/-- Settles O46: a step performs the waiting access, and each of these accesses is refused in every state. -/
theorem outsideAccessesRefused : Obligations.OutsideAccessesRefused := by
  unfold Obligations.OutsideAccessesRefused
  intro s rest
  refine ⟨fun o v hpend ho => ?_, fun o hpend ho => ?_, fun o w hpend => ?_, fun a n hpend ha => ?_,
    fun a bs hpend ha => ?_, fun hpend => ?_, fun hpend => ?_⟩
  · exact (hostStep_of_pending hpend).trans (hostAccess_regWrite_of_invalid v (validOffset_eq_false ho))
  · exact (hostStep_of_pending hpend).trans (hostAccess_regRead_of_invalid (validOffset_eq_false ho))
  · exact hostStep_of_pending hpend
  · exact (hostStep_of_pending hpend).trans (hostMMRead_of_outside ha)
  · exact (hostStep_of_pending hpend).trans (hostMMWrite_of_outside ha)
  · exact hostStep_of_pending hpend
  · exact hostStep_of_pending hpend

end Sys2Proof.Machine
end

section
/-! SUPPORT. Decoding against encoding (30_encoding R101-R109). Every word is either the word of a command or has a
reserved value in a field, which makes it illegal; so what `decode` does on the words of the commands says what it does
on every word. -/

namespace Sys2Proof

/-! ### The words of the commands -/

/-- R107 on the word of a command: only the algorithm's being built is left to check. -/
theorem decode_encode (has : Bool) (i : Instr) :
    decode has (encode i) = if wellFormed has i then .ok i else .error .notImplemented := by
  cases i with
  | init alg | hashbuf alg | sbegin alg => cases alg <;> cases has <;> rfl
  | bswap ws => cases ws <;> rfl
  | nop | pad | compress | sstep | stdig | clrerr => rfl

theorem decode_encode_of_wellFormed {has : Bool} {i : Instr} (h : wellFormed has i = true) :
    decode has (encode i) = .ok i := by rw [decode_encode, if_pos h]

theorem decode_encode_of_not_wellFormed {has : Bool} {i : Instr} (h : wellFormed has i = false) :
    decode has (encode i) = .error .notImplemented := by rw [decode_encode, h]; rfl

/-- With SHA2-512 built every algorithm is. -/
theorem wellFormed_of_sha512 (i : Instr) : wellFormed true i = true := by
  cases i with
  | init alg | hashbuf alg | sbegin alg => cases alg <;> rfl
  | nop | pad | compress | sstep | bswap | stdig | clrerr => rfl

/-! ### The reserved words -/

/-- The three OPs that use ALG (R103). -/
def StartingOp (op : BitVec 8) : Prop := op = 0x01 ∨ op = 0x04 ∨ op = 0x05

/-- The reserved words of R109: a reserved OP, a nonzero RSV, a nonzero field that the OP does not use, or a reserved
ALG or WS. -/
inductive ReservedWord (c : Word32) : Prop
  | op (hop : (opField c).toNat > 0x09)
  | rsv (hrsv : rsvField c ≠ 0)
  | unusedAlg (hs : ¬ StartingOp (opField c)) (halg : algField c ≠ 0)
  | unusedWs (hb : opField c ≠ 0x07) (hws : wsField c ≠ 0)
  | alg (hs : StartingOp (opField c)) (halg : algOfCode (algField c) = none)
  | ws (hb : opField c = 0x07) (hws : wsOfCode (wsField c) = none)

theorem not_reservedWord_encode (i : Instr) : ¬ ReservedWord (encode i) := by
  intro h
  cases h with
  | op hop => exact absurd (opcode_toNat_le i) (Nat.not_le_of_lt (opField_encode i ▸ hop))
  | rsv hrsv => exact hrsv (rsvField_encode i)
  | unusedAlg hs halg => cases i <;> simp [StartingOp, encode, opcode] at hs halg
  | unusedWs hb hws => cases i <;> simp [encode, opcode] at hb hws
  | alg hs halg => cases i <;> simp [StartingOp, encode, opcode] at hs halg
  | ws hb hws => cases i <;> simp [encode, opcode] at hb hws

theorem StartingOp.ne_swap {op : BitVec 8} (h : StartingOp op) : op ≠ 0x07 := by
  obtain rfl | rfl | rfl := h <;> decide

theorem encode_startingInstr {op : BitVec 8} (alg : Alg) (h : StartingOp op) :
    encode (startingInstr op alg) = formatC op (algCode alg) 0 := by
  obtain rfl | rfl | rfl := h <;> rfl

/-- An OP of R102 that uses no field has its command. -/
theorem plainInstr_ne_none {op : BitVec 8} (hle : ¬ op.toNat > 0x09) (hs : ¬ StartingOp op) (hb : op ≠ 0x07) :
    plainInstr op ≠ none := by
  unfold StartingOp at hs
  revert op
  decide

/-- A word whose RSV is zero is given by its other fields. -/
theorem formatC_eq_of_fields {c : Word32} {op : BitVec 8} {alg : BitVec 3} {ws : BitVec 2} (hrsv : rsvField c = 0)
    (hop : opField c = op) (halg : algField c = alg) (hws : wsField c = ws) : formatC op alg ws = c := by
  rw [← hop, ← halg, ← hws]
  exact (eq_formatC_of_rsv hrsv).symm

/-- The branches of R107: each check that fails finds a reserved value, and a word that passes them all is the word of
the command its OP names. -/
theorem reservedWord_or_encode (has : Bool) (c : Word32) :
    (ReservedWord c ∧ decode has c = .error .illegalCommand) ∨ ∃ i, encode i = c := by
  simp only [decode]
  split
  next hop => exact .inl ⟨.op hop, rfl⟩
  next hop =>
  split
  next hrsv => exact .inl ⟨.rsv hrsv, rfl⟩
  next hrsv =>
  have hrsv := not_not.1 hrsv
  split
  next hs =>
    split
    next hws => exact .inl ⟨.unusedWs (StartingOp.ne_swap hs) hws, rfl⟩
    next hws =>
    split
    next halg => exact .inl ⟨.alg hs halg, rfl⟩
    next alg halg =>
    exact .inr ⟨startingInstr (opField c) alg, (encode_startingInstr alg hs).trans
      (formatC_eq_of_fields hrsv rfl (algOfCode_eq_some halg) (not_not.1 hws))⟩
  next hs =>
  split
  next hb =>
    split
    next halg => exact .inl ⟨.unusedAlg hs halg, rfl⟩
    next halg =>
    split
    next hws => exact .inl ⟨.ws hb hws, rfl⟩
    next ws hws =>
    exact .inr ⟨.bswap ws, formatC_eq_of_fields hrsv hb (not_not.1 halg) (wsOfCode_eq_some hws)⟩
  next hb =>
  split
  next hfields => exact .inl ⟨hfields.elim (.unusedAlg hs) (.unusedWs hb), rfl⟩
  next hfields =>
  obtain ⟨halg, hws⟩ := not_or.1 hfields
  split
  next hi => exact absurd hi (plainInstr_ne_none hop hs hb)
  next i hi =>
  exact .inr ⟨i, (plainInstr_eq_some hi).2.trans (formatC_eq_of_fields hrsv rfl (not_not.1 halg) (not_not.1 hws))⟩

theorem not_reservedWord_iff {c : Word32} : ¬ ReservedWord c ↔ ∃ i, encode i = c := by
  refine ⟨fun h => ?_, ?_⟩
  · exact (reservedWord_or_encode true c).resolve_left fun hc => h hc.1
  · rintro ⟨i, rfl⟩
    exact not_reservedWord_encode i

theorem decode_of_reservedWord {has : Bool} {c : Word32} (h : ReservedWord c) :
    decode has c = .error .illegalCommand :=
  ((reservedWord_or_encode has c).resolve_right fun hi => not_reservedWord_iff.2 hi h).2

/-- The illegal words are the reserved ones: the word of a command is never illegal. -/
theorem decode_illegal_iff {has : Bool} {c : Word32} : decode has c = .error .illegalCommand ↔ ReservedWord c := by
  refine ⟨fun h => by_contra fun hc => ?_, decode_of_reservedWord⟩
  obtain ⟨i, rfl⟩ := not_reservedWord_iff.1 hc
  rw [decode_encode] at h
  split at h <;> cases h

/-- A word that is not illegal is the word of a command. -/
theorem exists_encode_of_decode_ne {has : Bool} {c : Word32} (h : decode has c ≠ .error .illegalCommand) :
    ∃ i, encode i = c := not_reservedWord_iff.1 (mt decode_of_reservedWord h)

/-! ### The round trip -/

/-- Settles O2: of the checks of R107 only the algorithm's depends on the build. -/
theorem decodeOfEncode : Obligations.DecodeOfEncode := by
  unfold Obligations.DecodeOfEncode
  intro has i
  exact ⟨decode_encode_of_wellFormed, decode_encode_of_not_wellFormed⟩

/-- Settles O3: the word is that of some command, and decoding gives that command back. -/
theorem encodeOfDecode : Obligations.EncodeOfDecode := by
  unfold Obligations.EncodeOfDecode
  intro has c i h
  obtain ⟨j, rfl⟩ := exists_encode_of_decode_ne (by rw [h]; nofun)
  rw [decode_encode] at h
  split at h
  next hj => cases h; exact ⟨rfl, hj⟩
  next => cases h

/-! ### The words by their numbers -/

theorem reservedWord_iff_fields {c : Word32} :
    ReservedWord c ↔ (opField c).toNat > 0x09 ∨ rsvField c ≠ 0 ∨ (¬ StartingOp (opField c) ∧ algField c ≠ 0) ∨
      (opField c ≠ 0x07 ∧ wsField c ≠ 0) ∨ (StartingOp (opField c) ∧ algOfCode (algField c) = none) ∨
      (opField c = 0x07 ∧ wsOfCode (wsField c) = none) := by
  refine ⟨fun h => by cases h <;> tauto, ?_⟩
  rintro (hop | hrsv | ⟨hs, halg⟩ | ⟨hb, hws⟩ | ⟨hs, halg⟩ | ⟨hb, hws⟩)
  exacts [.op hop, .rsv hrsv, .unusedAlg hs halg, .unusedWs hb hws, .alg hs halg, .ws hb hws]

/-- R109 in the numbers of the fields. -/
theorem reservedWord_iff (c : Word32) :
    let op := c.toNat % 256
    let alg := c.toNat / 256 % 8
    let ws := c.toNat / 2048 % 4
    let starting := op = 1 ∨ op = 4 ∨ op = 5
    ReservedWord c ↔ 0x0A ≤ op ∨ c.toNat / 8192 ≠ 0 ∨ (¬ starting ∧ alg ≠ 0) ∨ (op ≠ 7 ∧ ws ≠ 0) ∨
      (starting ∧ 4 ≤ alg) ∨ (op = 7 ∧ 2 ≤ ws) := by
  simp only [reservedWord_iff_fields, StartingOp, algOfCode_eq_none_iff, wsOfCode_eq_none_iff, ← BitVec.toNat_inj, ne_eq,
    opField_toNat, algField_toNat, wsField_toNat, rsvField_toNat]
  rfl

theorem wellFormed_startingInstr (has : Bool) (op : BitVec 8) (alg : Alg) :
    wellFormed has (startingInstr op alg) = algBuilt has alg := by
  unfold startingInstr
  split
  · rfl
  · split <;> rfl

/-- A command that the build lacks is a starting one, and its algorithm is SHA2-512. -/
theorem fields_of_not_wellFormed {has : Bool} {i : Instr} (h : wellFormed has i = false) :
    StartingOp (opcode i) ∧ wsField (encode i) = 0 ∧ algField (encode i) = 3 ∧ has = false := by
  cases i with
  | init alg | hashbuf alg | sbegin alg =>
    cases alg <;> simp_all [wellFormed, algBuilt, StartingOp, opcode, encode, algCode]
  | nop | pad | compress | sstep | bswap | stdig | clrerr => cases h

/-- The words that are not implemented (R109): those of the starting commands with ALG = 3, where it is not built. -/
theorem decode_notImplemented_iff {has : Bool} {c : Word32} : decode has c = .error .notImplemented ↔
    StartingOp (opField c) ∧ rsvField c = 0 ∧ wsField c = 0 ∧ algField c = 3 ∧ has = false := by
  constructor
  · intro h
    obtain ⟨i, rfl⟩ := exists_encode_of_decode_ne (by rw [h]; nofun)
    have hi : wellFormed has i = false :=
      Bool.eq_false_iff.2 fun hw => by rw [decode_encode_of_wellFormed hw] at h; cases h
    rw [opField_encode, rsvField_encode]
    obtain ⟨hs, hws, halg, hhas⟩ := fields_of_not_wellFormed hi
    exact ⟨hs, rfl, hws, halg, hhas⟩
  · rintro ⟨hs, hrsv, hws, halg, rfl⟩
    have hc : encode (startingInstr (opField c) .sha512) = c :=
      (encode_startingInstr .sha512 hs).trans (formatC_eq_of_fields hrsv rfl halg hws)
    rw [← hc]
    exact decode_encode_of_not_wellFormed (wellFormed_startingInstr false _ .sha512)

/-- R109's absent algorithm in the numbers of the fields. -/
theorem decode_notImplemented_iff_toNat (has : Bool) (c : Word32) :
    let op := c.toNat % 256
    decode has c = .error .notImplemented ↔ (op = 1 ∨ op = 4 ∨ op = 5) ∧ c.toNat / 8192 = 0 ∧
      c.toNat / 2048 % 4 = 0 ∧ c.toNat / 256 % 8 = 3 ∧ has = false := by
  simp only [decode_notImplemented_iff, StartingOp, ← BitVec.toNat_inj, opField_toNat, algField_toNat, wsField_toNat,
    rsvField_toNat]
  rfl

/-- The three outcomes of decoding (R107, R109). -/
theorem decode_outcomes (has : Bool) (c : Word32) :
    decode has c = .error .illegalCommand ∨ decode has c = .error .notImplemented ∨ ∃ i, decode has c = .ok i := by
  by_cases hc : ReservedWord c
  · exact .inl (decode_of_reservedWord hc)
  · obtain ⟨i, rfl⟩ := not_reservedWord_iff.1 hc
    rw [decode_encode]
    split
    · exact .inr (.inr ⟨i, rfl⟩)
    · exact .inr (.inl rfl)

end Sys2Proof

namespace Sys2Proof.Machine

/-- A word that does not decode raises the decoder's error where no error is pending (R107, 10_state R46). -/
theorem commandWrite_of_decode_error {c : Word32} {s : State} {e : ErrorCode} (he : s.err = false)
    (h : decode s.params.hasSha512 c = .error e) : commandWrite c s = .next (raiseError e s) := by
  simp [commandWrite, gateDrops, he, h]

/-- Settles O4: the illegal words are the reserved ones, and a word without a reserved field is a command's. -/
theorem illegalWords : Obligations.IllegalWords := by
  unfold Obligations.IllegalWords
  refine ⟨fun has c => ⟨?_, ?_, ?_⟩, fun has => ?_, fun s c he => ⟨?_, ?_⟩⟩
  · exact decode_illegal_iff.trans (reservedWord_iff c)
  · exact decode_notImplemented_iff_toNat has c
  · exact decode_outcomes has c
  · exact decode_encode_of_wellFormed (i := .nop) rfl
  · exact commandWrite_of_decode_error he
  · exact commandWrite_of_decode_error he

/-- Settles O1: the words are those of the commands, and with SHA2-512 every command is well formed. -/
theorem legalWordsDecode : Obligations.LegalWordsDecode := by
  unfold Obligations.LegalWordsDecode
  intro p hp
  have henc : encode p.2 = p.1 := by
    revert p
    decide
  refine ⟨?_, henc⟩
  rw [← henc]
  exact decode_encode_of_wellFormed (wellFormed_of_sha512 p.2)

end Sys2Proof.Machine
end

section
/-! SUPPORT. The word conversion unit (40_endian R130-R135). Everything is said of one group of W bytes first; a
conversion of whole groups is then the groups converted one by one. -/

namespace Sys2Proof.Machine

/-! ### One word -/

theorem encBytes_ofNat_bytesValue {W : Nat} {e : Endian} {g : List Byte} (h : g.length = W) :
    encBytes e W (BitVec.ofNat (8 * W) (bytesValue e g)).toNat = g := by
  subst h
  rw [BitVec.toNat_ofNat, ← pow_256, Nat.mod_eq_of_lt (bytesValue_lt e g), encBytes_bytesValue]

theorem ofNat_bytesValue_encBytes {W : Nat} (e : Endian) (w : BitVec (8 * W)) :
    BitVec.ofNat (8 * W) (bytesValue e (encBytes e W w.toNat)) = w := by
  rw [bytesValue_encBytes, pow_256, Nat.mod_eq_of_lt w.isLt, BitVec.ofNat_toNat, BitVec.setWidth_eq]

/-! ### The three laws of R132 -/

theorem wordsToBytes_bytesToWords {W : Nat} (e : Endian) {bs : List Byte} (h : bs.length % W = 0) :
    wordsToBytes W e (bytesToWords W e bs) = bs := by
  have hgroup : ∀ g ∈ groups W bs, encBytes e W (BitVec.ofNat (8 * W) (bytesValue e g)).toNat = g :=
    fun g hg => encBytes_ofNat_bytesValue (groups_mem_length h hg)
  calc wordsToBytes W e (bytesToWords W e bs)
      = ((groups W bs).map (fun g => encBytes e W (BitVec.ofNat (8 * W) (bytesValue e g)).toNat)).flatten := by
        rw [bytesToWords_of_multiple h, wordsToBytes_eq_flatten, List.map_map]; rfl
    _ = (groups W bs).flatten := by rw [List.map_congr_left hgroup, List.map_id']
    _ = bs := groups_flatten h

theorem bytesToWords_wordsToBytes {W : Nat} (hW : 0 < W) (e : Endian) (ws : List (BitVec (8 * W))) :
    bytesToWords W e (wordsToBytes W e ws) = ws := by
  have hwhole : (wordsToBytes W e ws).length % W = 0 := by rw [wordsToBytes_length, Nat.mul_mod_left]
  have hgroups : groups W (wordsToBytes W e ws) = ws.map (fun w => encBytes e W w.toNat) := by
    rw [wordsToBytes_eq_flatten, groups_of_flatten hW]
    simp
  rw [bytesToWords_of_multiple hwhole, hgroups, List.map_map]
  exact List.map_id'' (ofNat_bytesValue_encBytes e) ws

theorem bytesToWords_be_eq_le_swapBytes {W : Nat} (hW : 0 < W) {bs : List Byte} (h : bs.length % W = 0) :
    bytesToWords W .be bs = bytesToWords W .le (swapBytes W bs) := by
  have hswap : (swapBytes W bs).length % W = 0 := by rwa [swapBytes_length h]
  rw [bytesToWords_of_multiple h, bytesToWords_of_multiple hswap, groups_swapBytes hW h, List.map_map]
  exact List.map_congr_left (fun g _ => by rw [bytesValue_be_reverse, Function.comp_apply])

/-- Settles O33: each law holds of one word, and the groups of the bytes are the words' encodings. -/
theorem conversionLaws : Obligations.ConversionLaws := by
  unfold Obligations.ConversionLaws
  intro W e hW
  have hpos : 0 < W := by omega
  exact ⟨fun bs h => wordsToBytes_bytesToWords e h, bytesToWords_wordsToBytes hpos e,
    fun bs h => bytesToWords_be_eq_le_swapBytes hpos h⟩

/-! ### The swap (R133) -/

/-- A group that begins inside a sequence of whole groups ends inside it. -/
theorem group_end_le {W n g j : Nat} (h : n % W = 0) (hi : g * W + j < n) : (g + 1) * W ≤ n := by
  have hn := length_eq_of_mod h
  have hg : g < n / W := Nat.lt_of_mul_lt_mul_right (a := W) (by omega)
  rw [hn]
  exact Nat.mul_le_mul_right W hg

/-- Element j of group g is element g * size + j of the sequence. -/
theorem groups_getElem_getElem? {α : Type} {size g j : Nat} {xs : List α} (hg : g < (groups size xs).length)
    (hj : j < size) : (groups size xs)[g][j]? = xs[g * size + j]? := by
  rw [groups_getElem, List.getElem?_take_of_lt hj, List.getElem?_drop]

theorem swapBytes_getElem? {W g j : Nat} {bs : List Byte} (h : bs.length % W = 0) (hj : j < W)
    (hi : g * W + j < bs.length) : (swapBytes W bs)[g * W + j]? = bs[g * W + (W - 1 - j)]? := by
  have hW : 0 < W := by omega
  have hg : g < (groups W bs).length := by
    rw [groups_length]
    exact (Nat.le_div_iff_mul_le hW).2 (group_end_le h hi)
  have hlen : (groups W bs)[g].length = W := groups_mem_length h (List.getElem_mem hg)
  have hswap : (groups W (swapBytes W bs))[g]'(by rwa [groups_swapBytes hW h, List.length_map]) =
      (groups W bs)[g].reverse := by simp only [groups_swapBytes hW h, List.getElem_map]
  calc (swapBytes W bs)[g * W + j]?
      = (groups W bs)[g].reverse[j]? := by rw [← hswap, groups_getElem_getElem? _ hj]
    _ = (groups W bs)[g][W - 1 - j]? := by rw [List.getElem?_reverse (by omega), hlen]
    _ = bs[g * W + (W - 1 - j)]? := groups_getElem_getElem? hg (by omega)

theorem swapBytes_swapBytes {W : Nat} (hW : 0 < W) {bs : List Byte} (h : bs.length % W = 0) :
    swapBytes W (swapBytes W bs) = bs := by
  have hswap : (swapBytes W bs).length % W = 0 := by rwa [swapBytes_length h]
  rw [swapBytes_eq_flatten hswap, groups_swapBytes hW h, List.map_map, List.reverse_involutive.comp_self, List.map_id,
    groups_flatten h]

/-- Settles O34: swapping reverses each group, and reversing twice gives the group back. -/
theorem swapReversesWords : Obligations.SwapReversesWords := by
  unfold Obligations.SwapReversesWords
  intro W bs hW h
  exact ⟨swapBytes_length h, fun g j hj hi => swapBytes_getElem? h hj hi, swapBytes_swapBytes (by omega) h⟩

/-! ### BSWAP (R135) -/

theorem wordSizeBytes_pos (ws : WordSize) : 0 < wordSizeBytes ws := by cases ws <;> decide

/-- R133's equation on memory: where a range of whole words holds `bs`, writing the swapped bytes reverses each word. -/
theorem memByte_memWrite_swapBytes {m : Memory} {a W g j : Nat} {bs : List Byte}
    (hm : memRead m a bs.length = .ok bs) (h : bs.length % W = 0) (hj : j < W) (hi : g * W + j < bs.length) :
    memByte (memWrite m a (swapBytes W bs)) (a + (g * W + j)) = memByte m (a + (g * W + (W - 1 - j))) := by
  have hlen := swapBytes_length h
  have hmirror : g * W + (W - 1 - j) < bs.length := by
    have hend := group_end_le h hi
    rw [Nat.succ_mul] at hend
    omega
  rw [memByte_memWrite_inside _ _ _ _ (by omega), memRead_byte hm _ hmirror, ← List.getElem?_eq_getElem,
    ← List.getElem?_eq_getElem, swapBytes_getElem? h hj hi]

/-- Settles O30: BSWAP completes on the bytes that its range holds, and writes them swapped to the same range. -/
theorem bswapResult : Obligations.BswapResult := by
  unfold Obligations.BswapResult
  intro ws s bs w he hlen hholds hw hr
  have hsize : w = wordSizeBytes ws := rfl
  rw [hsize] at hw ⊢
  have hwhole : bs.length % wordSizeBytes ws = 0 := by rwa [hlen]
  have hread : memRead s.mm s.a0.toNat bs.length = .ok bs := memRead_of_holdsBytes hholds
  refine ⟨_, execBswap_of_read he hw hr (hlen ▸ hread), rfl, fun g j hj hi => ?_, fun x hx => ?_⟩
  · exact memByte_memWrite_swapBytes hread hwhole hj (by rwa [hlen])
  · exact memByte_memWrite_outside (by rwa [swapBytes_length hwhole, hlen])

/-- A second write to a range replaces the first: nothing of the bytes between remains, in the canonical form too. -/
theorem memWrite_memWrite {m : Memory} (hwf : Memory.wf m) (a : Nat) {xs ys : List Byte} (h : xs.length = ys.length) :
    memWrite (memWrite m a xs) a ys = memWrite m a ys := by
  refine mem_ext (memWrite_wf a ys (memWrite_wf a xs hwf)) (memWrite_wf a ys hwf) (fun x => ?_)
  simp only [memByte_memWrite, h]
  split <;> rfl

/-- Writing to a range what it holds changes nothing. -/
theorem memWrite_of_memRead {m : Memory} {a n : Nat} {bs : List Byte} (hwf : Memory.wf m)
    (h : memRead m a n = .ok bs) : memWrite m a bs = m := by
  refine mem_ext (memWrite_wf a bs hwf) hwf (fun x => ?_)
  by_cases hx : a ≤ x ∧ x < a + bs.length
  · obtain ⟨i, rfl⟩ := Nat.exists_eq_add_of_le hx.1
    have hi : i < bs.length := by omega
    rw [memByte_memWrite_inside m a bs i hi, memRead_byte h i hi]
  · exact memByte_memWrite_outside (by omega)

/-- A BSWAP from a state without a pending error that raises none wrote back, swapped, the bytes that it read. -/
theorem execBswap_next_of_no_err {ws : WordSize} {s t : State} (he : s.err = false) (h : execBswap ws s = .next t)
    (ht : t.err = false) :
    lenArg s % wordSizeBytes ws = 0 ∧ srcAddr s + lenArg s ≤ s.params.mmSize ∧
      ∃ src, memRead s.mm (srcAddr s) (lenArg s) = .ok src ∧
        t = setMM (memWrite s.mm (srcAddr s) (swapBytes (wordSizeBytes ws) src)) s := by
  obtain ⟨he', -⟩ | ⟨-, ⟨-, rfl⟩ | ⟨-, -, rfl⟩ | hdone⟩ := execBswap_next h
  · simp [he] at he'
  · simp at ht
  · simp at ht
  · exact hdone

/-- Reading the swapped range back and writing it swapped again restores memory. -/
theorem memWrite_swapBytes_twice {m : Memory} {a n W : Nat} {bs : List Byte} (hwf : Memory.wf m) (hW : 0 < W)
    (hm : memRead m a n = .ok bs) (h : bs.length % W = 0) :
    memWrite (memWrite m a (swapBytes W bs)) a (swapBytes W (swapBytes W bs)) = m := by
  rw [swapBytes_swapBytes hW h, memWrite_memWrite hwf a (swapBytes_length h), memWrite_of_memRead hwf hm]

/-- Settles O31: the second BSWAP reads the swapped bytes, and swapped again they are those the range held. -/
theorem bswapTwiceRestores : Obligations.BswapTwiceRestores := by
  unfold Obligations.BswapTwiceRestores
  intro ws s t hwf he h ht
  obtain ⟨hw, hr, src, hread, rfl⟩ := execBswap_next_of_no_err he h ht
  have hsrc : src.length = lenArg s := memRead_length hread
  have hwhole : src.length % wordSizeBytes ws = 0 := by rwa [hsrc]
  have hback := memRead_memWrite s.mm (srcAddr s) (swapBytes (wordSizeBytes ws) src)
  rw [swapBytes_length hwhole, hsrc] at hback
  have hmm := memWrite_swapBytes_twice hwf (wordSizeBytes_pos ws) hread hwhole
  exact (execBswap_of_read (s := setMM (memWrite s.mm _ _) s) he hw hr hback).trans
    (congrArg (fun m => Host.Outcome.next (setMM m s)) hmm)

end Sys2Proof.Machine
end

section
/-! SUPPORT. The padding engine (41_padding R150-R156): the padded length as the least number of whole blocks with room,
the padded message by its four regions, and PAD, which stores it. -/

namespace Sys2Proof.Machine

/-! ### The padded length (R151) -/

theorem padLen_eq_mul_ceilDiv (L : Nat) (alg : Alg) :
    padLen L alg = (algParams alg).B * ((L + 1 + (algParams alg).F) ⌈/⌉ (algParams alg).B) := by
  rw [padLen, Nat.ceilDiv_eq_add_pred_div, Nat.add_sub_assoc (blockSize_pos alg)]

theorem blockSize_dvd_padLen (L : Nat) (alg : Alg) : (algParams alg).B ∣ padLen L alg :=
  Nat.dvd_of_mod_eq_zero (padLen_mod L alg)

theorem padLen_div (L : Nat) (alg : Alg) :
    padLen L alg / (algParams alg).B = (L + 1 + (algParams alg).F) ⌈/⌉ (algParams alg).B := by
  rw [padLen_eq_mul_ceilDiv, Nat.mul_div_cancel_left _ (blockSize_pos alg)]

/-- No smaller number of whole blocks has the room. -/
theorem padLen_le {m L : Nat} {alg : Alg} (hd : (algParams alg).B ∣ m) (hl : L + 1 + (algParams alg).F ≤ m) :
    padLen L alg ≤ m := by
  obtain ⟨k, rfl⟩ := hd
  rw [padLen_eq_mul_ceilDiv]
  exact Nat.mul_le_mul_left _ ((ceilDiv_le_iff_le_mul (blockSize_pos alg)).2 hl)

theorem padLen_zero (alg : Alg) : padLen 0 alg = (algParams alg).B := by
  have hF := footer_lt_block alg
  exact (eq_padLen (Nat.mod_self _) (by omega) (by omega)).symm

theorem padLen_of_ne_sha512 {alg : Alg} (h : alg ≠ .sha512) (L : Nat) : padLen L alg = 64 * ((L + 8) / 64 + 1) := by
  cases alg with
  | sha224 | sha256 | ripemd160 => simp only [padLen, algParams]; omega
  | sha512 => exact absurd rfl h

/-- The padded message has the blocks of the message, or one more (R154 (e)). -/
theorem padLen_div_eq_or (L : Nat) (alg : Alg) :
    padLen L alg / (algParams alg).B = L ⌈/⌉ (algParams alg).B ∨
      padLen L alg / (algParams alg).B = L ⌈/⌉ (algParams alg).B + 1 := by
  have hB := blockSize_pos alg
  have hF := footer_lt_block alg
  have hroom : L ≤ (algParams alg).B * (L ⌈/⌉ (algParams alg).B) := (ceilDiv_le_iff_le_mul hB).1 le_rfl
  have hle : L ⌈/⌉ (algParams alg).B ≤ padLen L alg / (algParams alg).B := by
    rw [padLen_div]
    exact (gc_mul_ceilDiv hB).monotone_l (by omega)
  have hge : padLen L alg / (algParams alg).B ≤ L ⌈/⌉ (algParams alg).B + 1 := by
    rw [padLen_div, ceilDiv_le_iff_le_mul hB, Nat.mul_succ]
    omega
  omega

/-- The source's condition on newLen says that newLen and the footer are whole blocks. -/
theorem mod_eq_sub_footer_iff (m : Nat) (alg : Alg) :
    m % (algParams alg).B = ((algParams alg).B - (algParams alg).F) % (algParams alg).B ↔
      (algParams alg).B ∣ m + (algParams alg).F := by
  cases alg <;> simp only [algParams] <;> omega

/-- Settles O35: newLen is the padded length without its footer, and padLen is the least number of whole blocks. -/
theorem padLenIsLeast : Obligations.PadLenIsLeast := by
  unfold Obligations.PadLenIsLeast
  intro alg L B F
  have hge := padLen_ge L alg
  have hsplit : padLen L alg - F + F = padLen L alg := Nat.sub_add_cancel (by omega)
  refine ⟨⟨padLen L alg - F, hsplit.symm, by omega, ?_, fun m hm hmod => ?_⟩, padLen_eq_mul_ceilDiv L alg,
    fun h32 => ?_⟩
  · rw [mod_eq_sub_footer_iff, hsplit]
    exact blockSize_dvd_padLen L alg
  · have hle : padLen L alg ≤ m + F := padLen_le ((mod_eq_sub_footer_iff m alg).1 hmod) (by omega)
    omega
  · rw [padLen_of_ne_sha512 h32]
    omega

/-! ### The regions of the padded message (R153, R154) -/

/-- What stands before the footer fills the padded length up to it. -/
theorem pad_body_length (msg : List Byte) (alg : Alg) :
    (msg ++ [0x80] ++ zeros (padLen msg.length alg - (algParams alg).F - (msg.length + 1))).length =
      padLen msg.length alg - (algParams alg).F := by
  have hge := padLen_ge msg.length alg
  simp only [List.length_append, List.length_singleton, zeros_length]
  omega

theorem pad_take_message (msg : List Byte) (alg : Alg) : (pad msg alg).take msg.length = msg := by simp [pad]

theorem pad_drop_footer (msg : List Byte) (alg : Alg) :
    (pad msg alg).drop (padLen msg.length alg - (algParams alg).F) = lenField msg.length alg := by
  rw [pad, List.drop_left' (pad_body_length msg alg)]

theorem pad_getElem?_message {msg : List Byte} {i : Nat} (alg : Alg) (h : i < msg.length) :
    (pad msg alg)[i]? = some msg[i] := by
  rw [← List.getElem?_take_of_lt h, pad_take_message, List.getElem?_eq_getElem h]

theorem pad_getElem?_marker (msg : List Byte) (alg : Alg) : (pad msg alg)[msg.length]? = some 0x80 := by simp [pad]

theorem pad_getElem?_zero {msg : List Byte} {alg : Alg} {i : Nat} (hlo : msg.length < i)
    (hhi : i < padLen msg.length alg - (algParams alg).F) : (pad msg alg)[i]? = some 0 := by
  have hmarker : (msg ++ [(0x80 : Byte)]).length = msg.length + 1 := by simp
  rw [pad, List.getElem?_append_left (by rwa [pad_body_length]), List.getElem?_append_right (by omega), hmarker, zeros,
    List.getElem?_replicate_of_lt (by omega)]

theorem pad_getElem?_footer (msg : List Byte) (alg : Alg) (j : Nat) :
    (pad msg alg)[padLen msg.length alg - (algParams alg).F + j]? = (lenField msg.length alg)[j]? := by
  rw [← pad_drop_footer, List.getElem?_drop]

/-- Settles O36: (a) to (c) are the regions, (d) the padded length as the least one, (e) its count of blocks. -/
theorem padProperties : Obligations.PadProperties := by
  unfold Obligations.PadProperties
  intro alg msg
  exact ⟨⟨pad_length msg alg, blockSize_dvd_padLen _ alg⟩, pad_take_message msg alg,
    ⟨pad_getElem?_marker msg alg, fun i hlo hhi => pad_getElem?_zero hlo hhi⟩,
    ⟨padLen_ge _ alg, fun m hd hl => padLen_le hd hl⟩, fun _ => padLen_div_eq_or _ alg, padLen_zero alg⟩

/-! ### The footer (R152, R156) -/

/-- Byte j of a value's n bytes, in either order. -/
theorem encBytes_getElem? (e : Endian) {n j : Nat} (v : Nat) (h : j < n) :
    (encBytes e n v)[j]? = some (BitVec.ofNat 8 (v / 256 ^ (if e = .be then n - 1 - j else j))) := by
  rw [List.getElem?_eq_getElem (by simpa)]
  cases e with
  | be => exact congrArg some (encBE_getElem n v j _)
  | le => exact congrArg some (encLE_getElem n v j _)

/-- Below 2^61 bytes the footer's reduction modulo 2^64 changes nothing. -/
theorem lenField_of_lt {L : Nat} (alg : Alg) (h : L < 2 ^ 61) :
    lenField L alg = encBytes (algParams alg).lenEnd (algParams alg).F (8 * L) := by
  rw [lenField, Nat.mod_eq_of_lt (by omega)]

theorem two_pow_64_le_footer (alg : Alg) : 2 ^ 64 ≤ 256 ^ (algParams alg).F := by cases alg <;> decide

theorem bytesValue_lenField {L : Nat} (alg : Alg) (h : L < 2 ^ 61) :
    bytesValue (algParams alg).lenEnd (lenField L alg) = 8 * L := by
  have hroom := two_pow_64_le_footer alg
  rw [lenField_of_lt alg h, bytesValue_encBytes, Nat.mod_eq_of_lt (by omega)]

/-- Settles O37: the last F bytes are the footer, and the bit length fits it. -/
theorem footerIsBitLength : Obligations.FooterIsBitLength := by
  unfold Obligations.FooterIsBitLength
  intro alg msg hlt
  rw [pad_length, pad_drop_footer, bytesValue_lenField alg hlt]

/-! ### PAD (R155) -/

/-- A byte of a sequence, read where the sequence has been written. -/
theorem memByte_memWrite_of_getElem? {bs : List Byte} {i : Nat} {b : Byte} (m : Memory) (a : Nat)
    (h : bs[i]? = some b) : memByte (memWrite m a bs) (a + i) = some b := by
  obtain ⟨hi, rfl⟩ := List.getElem?_eq_some_iff.1 h
  exact memByte_memWrite_inside m a bs i hi

/-- Settles O20: PAD stores the padded message of the bytes it has read, and each region is read back from there. -/
theorem padResult : Obligations.PadResult := by
  unfold Obligations.PadResult
  intro s msg n B F L d he ha hlen hholds hsrc hd hge hlt hdst
  obtain rfl : n = padLen L s.alg := eq_padLen (Nat.mod_eq_zero_of_dvd hd) hge hlt
  have hread : memRead s.mm s.a0.toNat L = .ok msg := hlen ▸ memRead_of_holdsBytes hholds
  have hpad : (pad msg s.alg).length = padLen L s.alg := hlen ▸ pad_length msg s.alg
  have hstored {i : Nat} {b : Byte} (h : (pad msg s.alg)[i]? = some b) :
      memByte (memWrite s.mm d (pad msg s.alg)) (d + i) = some b := memByte_memWrite_of_getElem? s.mm d h
  refine ⟨_, execPad_of_read he ha hsrc hdst hread, rfl, fun i hi => ?_, ?_, fun i hlo hhi => ?_, fun j hj => ?_,
    fun x hx => ?_⟩
  · exact hstored (pad_getElem?_message s.alg hi)
  · exact hstored (hlen ▸ pad_getElem?_marker msg s.alg)
  · exact hstored (pad_getElem?_zero (by omega) (by rwa [hlen]))
  · have hL : L < 2 ^ 61 := by have := s.a2.isLt; omega
    rw [Nat.add_assoc]
    refine hstored ?_
    rw [← hlen, pad_getElem?_footer, hlen, lenField_of_lt s.alg hL, encBytes_getElem? _ _ hj]
  · exact memByte_memWrite_outside (by rwa [hpad])

end Sys2Proof.Machine
end

section
/-! SUPPORT. The stream reader (42_stream R170-R185): what each row of its transition table puts into the buffer, that
these buffers are the blocks of the padded message, and a stream hash as the fold of those blocks. -/

namespace Sys2Proof.Machine

/-! ### SBEGIN (R172) -/

theorem execSbegin_of_known {alg : Alg} {s : State} {x : OpenAnswer} {rest : List OpenAnswer}
    (hb : algBuilt s.params.hasSha512 alg = true) (hx : s.source.opens = x :: rest) (hr : x.readable = true)
    (hk : x.lengthKnown = true) (hl : x.total.toNat < 2 ^ 61) :
    execSbegin alg s = .next (openStream x.total (initEffects alg (tookOpen x rest s))) := by
  rw [execSbegin, withBuilt_of_built hb]
  simp only [withOpen, hx, hr, hk, Bool.not_true, Bool.false_eq_true, if_false]
  exact if_neg (Nat.not_le.2 hl)

/-- Settles O25: the answer meets the three conditions, so INIT_EFFECTS and the open cursor are what SBEGIN leaves. -/
theorem sbeginOpens : Obligations.SbeginOpens := by
  unfold Obligations.SbeginOpens
  intro alg s x rest hb hx hr hk hl
  exact execSbegin_of_known hb hx hr hk hl

/-! ### SSTEP outside a stream (R173, R185) -/

theorem execSstep_of_no_stream {s : State} (he : s.err = false) (hs : s.sact = false) :
    execSstep s = .next (raiseError .sequenceError s) := by simp [execSstep, gated_of_no_err he, hs]

/-- The error entry clears SDONE, so a finished stream stands in no error state (R52 (e)). -/
theorem err_of_sdone {s : State} (hi : Inv s) (hd : s.sdone = true) : s.err = false := by
  cases he : s.err with
  | false => rfl
  | true =>
    obtain ⟨-, -, hclear⟩ := hi.errCursor he
    exact absurd hd (by simp [hclear])

/-- Settles O29: by the invariant SDONE = 1 comes with SACT = 0 and ERR = 0, and the error entry asks for nothing. -/
theorem doneStreamStaysDone : Obligations.DoneStreamStaysDone := by
  unfold Obligations.DoneStreamStaysDone
  intro s hi hd
  obtain ⟨hs, -, -⟩ := hi.streamDone hd
  exact ⟨_, execSstep_of_no_stream (err_of_sdone hi hd) hs, rfl, rfl, rfl, rfl, rfl⟩

/-! ### The rows of the transition table (R176 to R181) -/

/-- What an iteration makes of the bytes delivered: whether the padding byte goes in (R176), whether the footer does
(R178), and the buffer it compresses. -/
structure Fills (alg : Alg) (N : Nat) (pinj : Bool) (bs : List Byte) (inj done : Bool) (buf : List Byte) : Prop where
  padding : injects alg pinj bs.length = inj
  footer : placesFooter alg pinj bs.length = done
  buffer : streamBuffer alg N pinj bs = buf

section
variable {alg : Alg} {N : Nat} {pinj : Bool} {bs : List Byte}

/-- The row of a full block, which is compressed as delivered. -/
theorem fills_full (h : bs.length = (algParams alg).B) : Fills alg N pinj bs false false bs := by
  have hF := footer_pos alg
  have hi : injects alg pinj bs.length = false := by simp [injects, h]
  have hf : placesFooter alg pinj bs.length = false := by
    rw [placesFooter_of_not_injects hi, decide_eq_false_iff_not]
    omega
  exact ⟨hi, hf, by simp [streamBuffer_plain hi hf, h, zeros]⟩

theorem injects_of_short (hp : pinj = false) (h : bs.length < (algParams alg).B) :
    injects alg pinj bs.length = true := by simp [injects, hp, h]

/-- The row of a short block with room for padding byte and footer. -/
theorem fills_last (hp : pinj = false) (h : bs.length + 1 + (algParams alg).F ≤ (algParams alg).B) :
    Fills alg N pinj bs true true
      (bs ++ [0x80] ++ zeros ((algParams alg).B - (algParams alg).F - (bs.length + 1)) ++ lenField N alg) := by
  have hi : injects alg pinj bs.length = true := injects_of_short hp (by omega)
  have hf : placesFooter alg pinj bs.length = true := by rwa [placesFooter_of_injects hi, decide_eq_true_eq]
  exact ⟨hi, hf, streamBuffer_inject_footer h hi hf⟩

/-- The row of a short block with room for the padding byte alone. -/
theorem fills_padding (hp : pinj = false) (hlo : (algParams alg).B - (algParams alg).F ≤ bs.length)
    (hhi : bs.length < (algParams alg).B) :
    Fills alg N pinj bs true false (bs ++ [0x80] ++ zeros ((algParams alg).B - (bs.length + 1))) := by
  have hi : injects alg pinj bs.length = true := injects_of_short hp hhi
  have hf : placesFooter alg pinj bs.length = false := by
    rw [placesFooter_of_injects hi, decide_eq_false_iff_not]
    omega
  exact ⟨hi, hf, streamBuffer_inject hhi hi hf⟩

/-- The row after the padding byte: the footer alone. -/
theorem fills_footer (hp : pinj = true) :
    Fills alg N pinj [] false true (zeros ((algParams alg).B - (algParams alg).F) ++ lenField N alg) := by
  have hroom : 0 + (algParams alg).F ≤ (algParams alg).B := by have := footer_lt_block alg; omega
  have hi : injects alg pinj ([] : List Byte).length = false := by simp [injects, hp]
  have hf : placesFooter alg pinj ([] : List Byte).length = true := by
    rwa [placesFooter_of_not_injects hi, decide_eq_true_eq]
  exact ⟨hi, hf, streamBuffer_footer hroom hi hf⟩

end

theorem execSstep_of_fills {s : State} {bs buf : List Byte} {rest : List ReadAnswer} {inj done : Bool}
    (he : s.err = false) (hs : s.sact = true) (hx : s.source.reads = .data bs :: rest) (hl : bs.length = stepBytes s)
    (hf : Fills s.alg s.mlen.toNat s.pinj bs inj done buf) :
    execSstep s = .next (advanceStream (processBlock s.alg s.h buf) bs.length inj done
      (tookRead (stepBytes s) (.data bs) rest s)) := by
  obtain ⟨rfl, rfl, rfl⟩ := hf
  exact execSstep_of_data he hs hx hl

/-- Settles O26: each row fills the buffer its own way, and the flags that `advanceStream` joins are its Booleans. -/
theorem sstepTransitions : Obligations.SstepTransitions := by
  unfold Obligations.SstepTransitions
  intro s bs rest B F r footer he hs hle hx hl after
  have run {inj done : Bool} {buf : List Byte} (hf : Fills s.alg s.mlen.toNat s.pinj bs inj done buf) :
      exec .sstep s = .next (after buf (s.pinj || inj) (s.sdone || done) (s.sact && !done)) :=
    execSstep_of_fills he hs hx hl hf
  refine ⟨fun hp hr => ?_, fun hp hr => ?_, fun hp hlo hhi => ?_, fun hp hr => ?_⟩
  · simpa [hp, hs] using run (fills_full (by omega))
  · have hlen : bs.length = r := by omega
    have hrow := run (fills_last hp (hlen ▸ hr))
    simpa [hp, hlen] using hrow
  · have hlen : bs.length = r := by omega
    have hrow := run (fills_padding hp (hlen ▸ hlo) (hlen ▸ hhi))
    simpa [hp, hs, hlen] using hrow
  · obtain rfl : bs = [] := List.length_eq_zero_iff.1 (by omega)
    simpa [hp] using run (fills_footer hp)

/-! ### The blocks of the padded message (R182) -/

/-- Where a block that begins at byte p of a padded message of N bytes lies: R181's four rows by position. -/
inductive BlockAt (alg : Alg) (N p : Nat) : Prop
  | full (inside : p + (algParams alg).B ≤ N)
  | last (begins : p ≤ N) (room : N + 1 + (algParams alg).F ≤ p + (algParams alg).B)
      (ends : padLen N alg = p + (algParams alg).B)
  | padding (begins : p ≤ N) (short : N < p + (algParams alg).B)
      (noRoom : p + (algParams alg).B < N + 1 + (algParams alg).F)
      (ends : padLen N alg = p + (algParams alg).B + (algParams alg).B)
  | footer (past : N < p) (ends : padLen N alg = p + (algParams alg).B)

theorem blockAt_of_le {alg : Alg} {N p : Nat} (hp : (algParams alg).B ∣ p)
    (hle : p + (algParams alg).B ≤ padLen N alg) : BlockAt alg N p := by
  have hF := footer_lt_block alg
  have hd : (algParams alg).B ∣ p + (algParams alg).B := (Nat.dvd_add_self_right).2 hp
  by_cases hroom : N + 1 + (algParams alg).F ≤ p + (algParams alg).B
  · have hend : padLen N alg = p + (algParams alg).B := Nat.le_antisymm (padLen_le hd hroom) hle
    by_cases hN : N < p
    · exact .footer hN hend
    · exact .last (by omega) hroom hend
  by_cases hin : p + (algParams alg).B ≤ N
  · exact .full hin
  · have hend : padLen N alg = p + (algParams alg).B + (algParams alg).B :=
      (eq_padLen (Nat.mod_eq_zero_of_dvd ((Nat.dvd_add_self_right).2 hd)) (by omega) (by omega)).symm
    exact .padding (by omega) (by omega) (by omega) hend

/-- The padded message from a byte of the message on. -/
theorem pad_drop_of_le {msg : List Byte} {p : Nat} (alg : Alg) (h : p ≤ msg.length) :
    (pad msg alg).drop p = msg.drop p ++ [0x80] ++
      zeros (padLen msg.length alg - (algParams alg).F - (msg.length + 1)) ++ lenField msg.length alg := by
  simp [pad, List.drop_append_of_le_length h]

/-- The padded message from a byte past the padding byte on: zeros and the footer. -/
theorem pad_drop_of_lt {msg : List Byte} {alg : Alg} {p : Nat} (hlo : msg.length < p)
    (hhi : p ≤ padLen msg.length alg - (algParams alg).F) :
    (pad msg alg).drop p = zeros (padLen msg.length alg - (algParams alg).F - p) ++ lenField msg.length alg := by
  have hmarker : (msg ++ [(0x80 : Byte)]).length = msg.length + 1 := by simp
  rw [pad, List.drop_append_of_le_length (by rwa [pad_body_length]), List.drop_append,
    List.drop_of_length_le (by omega), hmarker, zeros, List.drop_replicate, List.nil_append, zeros]
  congr 2
  omega

theorem pad_block_length {msg : List Byte} {alg : Alg} {p : Nat} (h : p + (algParams alg).B ≤ padLen msg.length alg) :
    (((pad msg alg).drop p).take (algParams alg).B).length = (algParams alg).B := by
  rw [List.length_take, List.length_drop, pad_length]
  omega

/-- The last block of the padded message is all that is left of it. -/
theorem pad_block_of_end {msg : List Byte} {alg : Alg} {p : Nat} (h : padLen msg.length alg = p + (algParams alg).B) :
    ((pad msg alg).drop p).take (algParams alg).B = (pad msg alg).drop p :=
  List.take_of_length_le (by rw [List.length_drop, pad_length]; omega)

/-- A block inside the message is a block of the message. -/
theorem pad_block_of_inside {msg : List Byte} {alg : Alg} {p : Nat} (h : p + (algParams alg).B ≤ msg.length) :
    ((pad msg alg).drop p).take (algParams alg).B = (msg.drop p).take (algParams alg).B := by
  rw [pad_drop_of_le alg (by omega), List.append_assoc, List.append_assoc,
    List.take_append_of_le_length (by rw [List.length_drop]; omega)]

/-- The block with the padding byte and no room for the footer: the rest of the message, the padding byte and zeros. -/
theorem pad_block_of_no_room {msg : List Byte} {alg : Alg} {p : Nat} (hp : p ≤ msg.length)
    (hshort : msg.length < p + (algParams alg).B)
    (hend : padLen msg.length alg = p + (algParams alg).B + (algParams alg).B) :
    ((pad msg alg).drop p).take (algParams alg).B =
      msg.drop p ++ [0x80] ++ zeros ((algParams alg).B - ((msg.drop p).length + 1)) := by
  have hF := footer_lt_block alg
  have hmarker : (msg.drop p ++ [(0x80 : Byte)]).length = (msg.drop p).length + 1 := by simp
  have hdrop : (msg.drop p).length = msg.length - p := List.length_drop
  rw [pad_drop_of_le alg hp, List.take_append_of_le_length (by rw [List.length_append, zeros_length]; omega),
    List.take_append, List.take_of_length_le (by omega), zeros_take, hmarker]
  congr 2
  omega

/-- The iteration that begins at byte p fills its buffer with the block of the padded message that begins there. It puts
the padding byte in when that lies in the block, and the footer when the block is the last. -/
theorem fills_block {alg : Alg} {msg : List Byte} {p : Nat} (hp : (algParams alg).B ∣ p)
    (hle : p + (algParams alg).B ≤ padLen msg.length alg) :
    Fills alg msg.length (decide (msg.length < p)) ((msg.drop p).take (algParams alg).B)
      (decide (p ≤ msg.length ∧ msg.length < p + (algParams alg).B))
      (decide (p + (algParams alg).B = padLen msg.length alg)) (((pad msg alg).drop p).take (algParams alg).B) := by
  have hF := footer_lt_block alg
  have hge := padLen_ge msg.length alg
  have hdrop : (msg.drop p).length = msg.length - p := List.length_drop
  cases blockAt_of_le hp hle with
  | full inside =>
    rw [pad_block_of_inside inside,
      decide_eq_false (by omega : ¬ (p ≤ msg.length ∧ msg.length < p + (algParams alg).B)),
      decide_eq_false (by omega : p + (algParams alg).B ≠ padLen msg.length alg)]
    exact fills_full (by rw [List.length_take]; omega)
  | last begins room ends =>
    have hrow := fills_last (alg := alg) (N := msg.length) (bs := msg.drop p) rfl (by omega)
    have hzeros : padLen msg.length alg - (algParams alg).F - (msg.length + 1) =
      (algParams alg).B - (algParams alg).F - ((msg.drop p).length + 1) := by omega
    rwa [pad_block_of_end ends, pad_drop_of_le alg begins, hzeros, List.take_of_length_le (by omega),
      decide_eq_false (by omega : ¬ msg.length < p), decide_eq_true (by omega : p ≤ msg.length ∧ _),
      decide_eq_true ends.symm]
  | padding begins short noRoom ends =>
    have hrow := fills_padding (alg := alg) (N := msg.length) (bs := msg.drop p) rfl (by omega) (by omega)
    rwa [pad_block_of_no_room begins short ends, List.take_of_length_le (by omega),
      decide_eq_false (by omega : ¬ msg.length < p),
      decide_eq_true (by omega : p ≤ msg.length ∧ _),
      decide_eq_false (by omega : p + (algParams alg).B ≠ padLen msg.length alg)]
  | footer past ends =>
    have hzeros : padLen msg.length alg - (algParams alg).F - p = (algParams alg).B - (algParams alg).F := by omega
    rw [pad_block_of_end ends, pad_drop_of_lt past (by omega), hzeros, List.drop_of_length_le (by omega), List.take_nil,
      decide_eq_true past, decide_eq_false (by omega : ¬ (p ≤ msg.length ∧ _)), decide_eq_true ends.symm]
    exact fills_footer rfl

/-- Block k ends inside the padded message. -/
theorem block_end_le_padLen {alg : Alg} {N k : Nat} (h : k < padLen N alg / (algParams alg).B) :
    k * (algParams alg).B + (algParams alg).B ≤ padLen N alg := by
  rw [← Nat.succ_mul]
  exact (Nat.le_div_iff_mul_le (blockSize_pos alg)).1 h

/-- Settles O27: the buffer of the iteration at byte i * B is the block at that byte. -/
theorem streamBuffersAreBlocks : Obligations.StreamBuffersAreBlocks := by
  unfold Obligations.StreamBuffersAreBlocks
  intro alg msg i B hi
  rw [pad_length] at hi
  exact (fills_block (Nat.dvd_mul_left _ _) (block_end_le_padLen hi)).buffer

/-! ### A stream hash (R170, R183) -/

/-- The state of a stream hash of a message before iteration k, on a source that goes on delivering the message: the
first k blocks of the padded message are folded into H, and the cursor stands at their end. -/
structure StreamAt (alg : Alg) (msg : List Byte) (restR : List ReadAnswer) (k : Nat) (s : State) : Prop where
  algorithm : s.alg = alg
  noErr : s.err = false
  declared : s.mlen.toNat = msg.length
  consumed : s.bcnt.toNat = min msg.length (k * (algParams alg).B)
  padded : s.pinj = decide (msg.length < k * (algParams alg).B)
  finished : s.sdone = decide (k * (algParams alg).B = padLen msg.length alg)
  streaming : s.sact = !decide (k * (algParams alg).B = padLen msg.length alg)
  folded : s.h = processBlocks alg (initialState alg) ((pad msg alg).take (k * (algParams alg).B))
  answers : s.source.reads = (conformingReads alg msg).drop k ++ restR

section
variable {alg : Alg} {msg : List Byte} {restR : List ReadAnswer} {k : Nat} {s : State}

/-- SBEGIN stands before iteration 0. -/
theorem streamAt_openStream {x : OpenAnswer} {rest : List OpenAnswer} (ht : x.total.toNat = msg.length)
    (hr : s.source.reads = conformingReads alg msg ++ restR) :
    StreamAt alg msg restR 0 (openStream x.total (initEffects alg (tookOpen x rest s))) := by
  have hne : 0 ≠ padLen msg.length alg := by have := padLen_ge msg.length alg; omega
  constructor <;> simp [ht, hr, hne, processBlocks, groups, chunks]

theorem conformingReads_drop (h : k < padLen msg.length alg / (algParams alg).B) :
    (conformingReads alg msg).drop k =
      .data ((msg.drop (k * (algParams alg).B)).take (algParams alg).B) :: (conformingReads alg msg).drop (k + 1) := by
  rw [List.drop_eq_getElem_cons (by simpa [conformingReads] using h)]
  simp [conformingReads]

theorem stepBytes_of_streamAt (h : StreamAt alg msg restR k s) :
    stepBytes s = min (algParams alg).B (msg.length - k * (algParams alg).B) := by
  rw [stepBytes, h.algorithm, h.declared, h.consumed]
  omega

/-- The bytes asked for bring BCNT to the end of the next block, or of the message. -/
theorem bcnt_advance_of_streamAt (h : StreamAt alg msg restR k s) :
    (s.bcnt + BitVec.ofNat 64 (stepBytes s)).toNat = min msg.length ((k + 1) * (algParams alg).B) := by
  have hle : s.bcnt.toNat ≤ s.mlen.toNat := by rw [h.consumed, h.declared]; exact Nat.min_le_left _ _
  rw [bcnt_advance_toNat hle, h.consumed, stepBytes_of_streamAt h, Nat.succ_mul]
  omega

/-- One more block of the padded message folded in. -/
theorem processBlocks_pad_take_succ (H : Bank) (h : k < padLen msg.length alg / (algParams alg).B) :
    processBlocks alg H ((pad msg alg).take ((k + 1) * (algParams alg).B)) =
      processBlock alg (processBlocks alg H ((pad msg alg).take (k * (algParams alg).B)))
        (((pad msg alg).drop (k * (algParams alg).B)).take (algParams alg).B) := by
  have hend := block_end_le_padLen h
  have hfront : ((pad msg alg).take (k * (algParams alg).B)).length = k * (algParams alg).B := by
    rw [List.length_take, pad_length]
    omega
  have hlen := pad_block_length hend
  rw [Nat.succ_mul, List.take_add, processBlocks_append alg H (by rw [hfront, Nat.mul_mod_left])
    (by rw [hlen, Nat.mod_self]), processBlocks_one alg _ hlen]

/-- An SSTEP of an unfinished stream hash folds in the next block. -/
theorem streamAt_succ (h : StreamAt alg msg restR k s) (hk : k < padLen msg.length alg / (algParams alg).B) :
    ∃ t, exec .sstep s = .next t ∧ StreamAt alg msg restR (k + 1) t := by
  have hend := block_end_le_padLen hk
  have hB := blockSize_pos alg
  have hne : k * (algParams alg).B ≠ padLen msg.length alg := by omega
  have hbytes := stepBytes_of_streamAt h
  have hadvance := bcnt_advance_of_streamAt h
  obtain ⟨rfl, he, hmlen, -, hpinj, hsdone, hsact, hh, hreads⟩ := h
  have hlen : ((msg.drop (k * (algParams s.alg).B)).take (algParams s.alg).B).length = stepBytes s := by
    rw [hbytes, List.length_take, List.length_drop]
  have hrow := fills_block (msg := msg) (Nat.dvd_mul_left _ _) hend
  rw [← hpinj] at hrow
  rw [conformingReads_drop hk, List.cons_append] at hreads
  refine ⟨_, execSstep_of_fills he (by simp [hsact, hne]) hreads hlen (by rwa [hmlen]), ?_⟩
  rw [hlen]
  exact {
    algorithm := rfl
    noErr := he
    declared := hmlen
    consumed := hadvance
    padded := by
      rw [advanceStream_pinj, tookRead_pinj, hpinj, Nat.succ_mul, ← Bool.decide_or]
      congr 1
      apply propext
      omega
    finished := by simp [hsdone, hne, Nat.succ_mul]
    streaming := by simp [hsact, hne, Nat.succ_mul]
    folded := by
      rw [processBlocks_pad_take_succ _ hk, ← hh]
      rfl
    answers := rfl }

/-- The SSTEPs of an unfinished stream hash run one after the other. -/
theorem runSteps_of_streamAt (n : Nat) (h : StreamAt alg msg restR k s)
    (hn : k + n ≤ padLen msg.length alg / (algParams alg).B) :
    ∃ t, runSteps n s = .next t ∧ StreamAt alg msg restR (k + n) t := by
  induction n generalizing k s with
  | zero => exact ⟨s, rfl, h⟩
  | succ n ih =>
    obtain ⟨t, hstep, ht⟩ := streamAt_succ h (by omega)
    obtain ⟨u, hrun, hu⟩ := ih ht (by omega)
    refine ⟨u, by simpa [runSteps, hstep] using hrun, ?_⟩
    rwa [Nat.add_right_comm] at hu

/-- After the last block H is what the buffer path leaves. -/
theorem h_of_streamAt_end (h : StreamAt alg msg restR (padLen msg.length alg / (algParams alg).B) s) :
    s.h = bufferState alg msg := by
  rw [h.folded, Nat.div_mul_cancel (blockSize_dvd_padLen _ alg), List.take_of_length_le (pad_length msg alg).le]
  rfl

/-- HASHBUF of a message held in MM, where it raises no error. -/
theorem execHashbuf_of_no_err {b c : State} (hb : algBuilt b.params.hasSha512 alg = true)
    (hlen : msg.length = b.a2.toNat) (hm : holdsBytes b b.a0.toNat msg) (h : execHashbuf alg b = .next c)
    (he : c.err = false) : c.h = bufferState alg msg ∧ c.alg = alg := by
  have hread : memRead b.mm b.a0.toNat b.a2.toNat = .ok msg := hlen ▸ memRead_of_holdsBytes hm
  obtain ⟨hnot, -⟩ | ⟨-, ⟨-, rfl⟩ | ⟨-, msg', hread', rfl⟩⟩ := execHashbuf_next h
  · exact absurd (hb.symm.trans hnot) (by decide)
  · exact absurd he (by simp)
  · obtain rfl : msg = msg' := Except.ok.inj (hread.symm.trans hread')
    exact ⟨rfl, rfl⟩

end

/-- Settles O28: the SSTEPs fold the blocks of the padded message one by one, and HASHBUF folds them at once. -/
theorem crossPathEquivalence : Obligations.CrossPathEquivalence := by
  unfold Obligations.CrossPathEquivalence
  intro alg msg s x restO restR hb hr hk ht hl hx hreads
  have hdvd := Nat.div_mul_cancel (blockSize_dvd_padLen msg.length alg)
  have hB := blockSize_pos alg
  have hopen := execSbegin_of_known hb hx hr hk (ht ▸ hl)
  have hstart := streamAt_openStream (rest := restO) ht hreads
  obtain ⟨u, hrun, hu⟩ := runSteps_of_streamAt (padLen msg.length alg / (algParams alg).B) hstart (by omega)
  rw [Nat.zero_add] at hu
  refine ⟨_, u, hopen, hrun, by simp [hu.finished, hdvd], by simp [hu.streaming, hdvd], hu.noErr, hu.algorithm,
    fun k hk => ?_, fun b c hbb hlen hm hexec he => ?_⟩
  · obtain ⟨v, hrunk, hv⟩ := runSteps_of_streamAt k hstart (by omega)
    rw [Nat.zero_add] at hv
    have hend := block_end_le_padLen hk
    exact ⟨v, hrunk, by rw [hv.finished, decide_eq_false (by omega)], hv.noErr⟩
  · obtain ⟨hch, hcalg⟩ := execHashbuf_of_no_err hbb hlen hm hexec he
    have hh : c.h = u.h := hch.trans (h_of_streamAt_end hu).symm
    exact ⟨hh, by rw [hcalg, hu.algorithm, hh]⟩

end Sys2Proof.Machine
end

section
/-! SUPPORT. The SHA-2 message schedule (43_sha2_256 R205, R264): the extension keeps the block words, and the recurrence
holds of every word it adds. -/

namespace Sys2Proof.Machine

/-- The word that R205 and R264 put after the words `ws`, given newest first. -/
def nextScheduleWord {w : Nat} (s0 s1 : BitVec w → BitVec w) (ws : List (BitVec w)) : BitVec w :=
  s1 (ws.getD 1 0) + ws.getD 6 0 + s0 (ws.getD 14 0) + ws.getD 15 0

/-- In `ws`, newest word first, each word with at least 16 older ones is the recurrence's word after those older ones. -/
def FollowsRecurrence {w : Nat} (s0 s1 : BitVec w → BitVec w) (ws : List (BitVec w)) : Prop :=
  ∀ j, j + 16 < ws.length → ws.getD j 0 = nextScheduleWord s0 s1 (ws.drop (j + 1))

section
variable {w : Nat} {s0 s1 : BitVec w → BitVec w}

theorem extendSchedule_succ (n : Nat) (ws : List (BitVec w)) :
    extendSchedule s0 s1 (n + 1) ws = extendSchedule s0 s1 n (nextScheduleWord s0 s1 ws :: ws) := rfl

theorem FollowsRecurrence.cons_next {ws : List (BitVec w)} (h : FollowsRecurrence s0 s1 ws) :
    FollowsRecurrence s0 s1 (nextScheduleWord s0 s1 ws :: ws) := by
  intro j hj
  cases j with
  | zero => simp
  | succ j =>
    rw [List.length_cons] at hj
    simpa using h j (by omega)

theorem followsRecurrence_extendSchedule (n : Nat) {ws : List (BitVec w)} (h : FollowsRecurrence s0 s1 ws) :
    FollowsRecurrence s0 s1 (extendSchedule s0 s1 n ws) := by
  induction n generalizing ws with
  | zero => exact h
  | succ n ih => rw [extendSchedule_succ]; exact ih h.cons_next

theorem followsRecurrence_of_length_le {ws : List (BitVec w)} (h : ws.length ≤ 16) : FollowsRecurrence s0 s1 ws :=
  fun j hj => by omega

theorem FollowsRecurrence.getD_reverse {ws : List (BitVec w)} (h : FollowsRecurrence s0 s1 ws) {t : Nat} (h16 : 16 ≤ t)
    (ht : t < ws.length) :
    ws.reverse.getD t 0 = s1 (ws.reverse.getD (t - 2) 0) + ws.reverse.getD (t - 7) 0 +
      s0 (ws.reverse.getD (t - 15) 0) + ws.reverse.getD (t - 16) 0 := by
  have older : ∀ k, k < 16 → (ws.drop (ws.length - 1 - t + 1)).getD k 0 = ws.reverse.getD (t - (k + 1)) 0 := by
    intro k hk
    rw [List.getD_reverse _ (by omega)]
    simp only [List.getD_eq_getElem?_getD, List.getElem?_drop]
    congr 2
    omega
  rw [List.getD_reverse _ ht, h _ (by omega), nextScheduleWord, older 1 (by decide), older 6 (by decide),
    older 14 (by decide), older 15 (by decide)]

variable {rounds : Nat} {X : List (BitVec w)}

theorem schedule_length (hr : 16 ≤ rounds) (hX : X.length = 16) : (schedule s0 s1 rounds X).length = rounds := by
  rw [schedule, List.length_reverse, extendSchedule_length, List.length_reverse, hX, Nat.sub_add_cancel hr]

theorem schedule_getElem?_of_lt {t : Nat} (ht : t < X.length) : (schedule s0 s1 rounds X)[t]? = X[t]? := by
  obtain ⟨new, hnew, -⟩ := extendSchedule_suffix s0 s1 (rounds - 16) X.reverse
  rw [schedule, hnew, List.reverse_append, List.reverse_reverse, List.getElem?_append_left ht]

theorem schedule_getD_recurrence (hX : X.length = 16) {t : Nat} (h16 : 16 ≤ t) (ht : t < rounds) :
    (schedule s0 s1 rounds X).getD t 0 =
      s1 ((schedule s0 s1 rounds X).getD (t - 2) 0) + (schedule s0 s1 rounds X).getD (t - 7) 0 +
        s0 ((schedule s0 s1 rounds X).getD (t - 15) 0) + (schedule s0 s1 rounds X).getD (t - 16) 0 := by
  have hblock : FollowsRecurrence s0 s1 X.reverse := followsRecurrence_of_length_le (by simp [hX])
  refine (followsRecurrence_extendSchedule (rounds - 16) hblock).getD_reverse h16 ?_
  rw [extendSchedule_length, List.length_reverse, hX]
  omega

end

/-- Settles O38: the extension starts from the 16 block words and keeps the recurrence with every word it adds. -/
theorem scheduleRecurrence : Obligations.ScheduleRecurrence := by
  unfold Obligations.ScheduleRecurrence
  constructor <;>
    exact fun X hX => ⟨schedule_length (by decide) hX, fun t ht => schedule_getElem?_of_lt (hX ▸ ht),
      fun t h16 ht => schedule_getD_recurrence hX h16 ht⟩

end Sys2Proof.Machine
end

section
/-! SUPPORT. The hasher's commands (46_hasher R284-R295): the initial values that INIT loads, the errors of each row of
R295, COMPRESS as a fold over its blocks, HASHBUF as the fold over the padded message, and the digest that STDIG
stores. -/

namespace Sys2Proof.Machine

/-! ### Operands and the bytes that MM holds -/

theorem toNat_ofNat32 {n : Nat} (h : n < 2 ^ 32) : (BitVec.ofNat 32 n).toNat = n := by
  rw [BitVec.toNat_ofNat, Nat.mod_eq_of_lt h]

theorem memRead_of_holdsBytes_of_length {s : State} {a n : Nat} {bs : List Byte} (h : holdsBytes s a bs)
    (hlen : bs.length = n) : memRead s.mm a n = .ok bs := hlen ▸ memRead_of_holdsBytes h

/-! ### NOP, INIT and CLRERR (R284, R285, R290) -/

/-- Settles O17: NOP answers with the state it is given. -/
theorem nopDoesNothing : Obligations.NopDoesNothing := by
  unfold Obligations.NopDoesNothing
  intro s
  rfl

/-- Settles O19: CLRERR answers with `clearError`, which is that update. -/
theorem clrerrClearsError : Obligations.ClrerrClearsError := by
  unfold Obligations.ClrerrClearsError
  intro s
  rfl

theorem execInit_of_built {alg : Alg} {s : State} (hb : algBuilt s.params.hasSha512 alg = true) :
    execInit alg s = .next (initEffects alg s) := withBuilt_of_built hb

theorem initialState_sha224 : initialState .sha224 = #v[0xc1059ed8, 0x367cd507, 0x3070dd17, 0xf70e5939, 0xffc00b31,
    0x68581511, 0x64f98fa7, 0xbefa4fa4] := by decide

theorem initialState_sha256 : initialState .sha256 = #v[0x6a09e667, 0xbb67ae85, 0x3c6ef372, 0xa54ff53a, 0x510e527f,
    0x9b05688c, 0x1f83d9ab, 0x5be0cd19] := by decide

theorem initialState_ripemd160 : initialState .ripemd160 = #v[0x67452301, 0xefcdab89, 0x98badcfe, 0x10325476,
    0xc3d2e1f0, 0, 0, 0] := by decide

theorem initialState_sha512 : initialState .sha512 = #v[0x6a09e667f3bcc908, 0xbb67ae8584caa73b, 0x3c6ef372fe94f82b,
    0xa54ff53a5f1d36f1, 0x510e527fade682d1, 0x9b05688c2b3e6c1f, 0x1f83d9abfb41bd6b, 0x5be0cd19137e2179] := by decide

/-- Settles O18: INIT leaves INIT_EFFECTS where the algorithm is built, and the bank is its initial value. -/
theorem initLoadsInitialValue : Obligations.InitLoadsInitialValue := by
  unfold Obligations.InitLoadsInitialValue
  intro s after
  have run {alg : Alg} (hb : algBuilt s.params.hasSha512 alg = true) :
      exec (.init alg) s = .next (after alg (initialState alg)) := execInit_of_built hb
  rw [← initialState_sha224, ← initialState_sha256, ← initialState_ripemd160, ← initialState_sha512]
  exact ⟨run rfl, run rfl, run rfl, fun h512 => run h512⟩

/-! ### The errors of each command (R295) -/

/-- Settles O9: of the ways in which a command can go on, a drop needs ERR = 1 before it, a completion leaves ERR = 0,
and each error raised stands in the command's row. -/
theorem errorsOfCommands : Obligations.ErrorsOfCommands := by
  unfold Obligations.ErrorsOfCommands
  intro i s t he h ht
  have noErr : ¬ s.err = true := by simp [he]
  cases i with
  | nop => obtain rfl := execNop_next h; exact noErr ht
  | init alg =>
    obtain ⟨-, rfl⟩ | ⟨-, rfl⟩ := execInit_next h
    · rfl
    · cases ht
  | pad =>
    obtain ⟨he', -⟩ | ⟨-, ⟨-, rfl⟩ | ⟨-, -, rfl⟩ | ⟨-, -, -, msg, -, rfl⟩⟩ := execPad_next h
    · exact absurd he' noErr
    · exact .inl rfl
    · exact .inr rfl
    · exact absurd ht noErr
  | compress =>
    obtain ⟨he', -⟩ | ⟨-, ⟨-, rfl⟩ | ⟨-, -, -, rfl⟩ | ⟨-, -, -, data, -, rfl⟩⟩ := execCompress_next h
    · exact absurd he' noErr
    · exact .inl rfl
    · exact .inr rfl
    · exact absurd ht noErr
  | hashbuf alg =>
    obtain ⟨-, rfl⟩ | ⟨-, ⟨-, rfl⟩ | ⟨-, msg, -, rfl⟩⟩ := execHashbuf_next h
    · exact .inl rfl
    · exact .inr rfl
    · cases ht
  | sbegin alg =>
    obtain ⟨-, rfl⟩ | ⟨-, x, rest, -, ⟨-, rfl⟩ | ⟨-, -, rfl⟩ | ⟨-, -, -, rfl⟩ | ⟨-, -, -, rfl⟩⟩ := execSbegin_next h
    · exact .inl rfl
    · exact .inr (.inl rfl)
    · exact .inr (.inr (.inl rfl))
    · exact .inr (.inr (.inr rfl))
    · cases ht
  | sstep =>
    obtain ⟨he', -⟩ | ⟨-, ⟨-, rfl⟩ | ⟨-, x, rest, -, ⟨-, rfl⟩ | ⟨bs, -, -, rfl⟩ | ⟨bs, -, -, rfl⟩⟩⟩ := execSstep_next h
    · exact absurd he' noErr
    · exact .inl rfl
    · exact .inr (.inl rfl)
    · exact .inr (.inr rfl)
    · exact absurd ht noErr
  | bswap ws =>
    obtain ⟨he', -⟩ | ⟨-, ⟨-, rfl⟩ | ⟨-, -, rfl⟩ | ⟨-, -, src, -, rfl⟩⟩ := execBswap_next h
    · exact absurd he' noErr
    · exact .inl rfl
    · exact .inr rfl
    · exact absurd ht noErr
  | stdig =>
    obtain ⟨he', -⟩ | ⟨-, ⟨-, rfl⟩ | ⟨-, -, -, rfl⟩ | ⟨-, -, -, rfl⟩⟩ := execStdig_next h
    · exact absurd he' noErr
    · exact .inl rfl
    · exact .inr rfl
    · exact absurd ht noErr
  | clrerr => obtain rfl := execClrerr_next h; cases ht

/-! ### COMPRESS (R287) -/

/-- Whole blocks folded in by position: as many as the length says. -/
theorem processBlocks_eq_range_of_length (alg : Alg) (h : Bank) {bs : List Byte} {n : Nat}
    (hlen : bs.length = n * (algParams alg).B) :
    processBlocks alg h bs = (List.range n).foldl
      (fun h j => processBlock alg h ((bs.drop (j * (algParams alg).B)).take (algParams alg).B)) h := by
  rw [processBlocks_eq_range, hlen, Nat.mul_div_cancel _ (blockSize_pos alg)]

/-- Settles O21: COMPRESS completes on the bytes that its range holds, and folds in as many blocks as A2 says. -/
theorem compressResult : Obligations.CompressResult := by
  unfold Obligations.CompressResult
  intro s data B he ha hs hlen hholds hr
  rw [← processBlocks_eq_range_of_length s.alg s.h hlen]
  exact execCompress_of_read he ha hs hr (memRead_of_holdsBytes_of_length hholds hlen)

/-- A COMPRESS of n blocks at a that meets its conditions and goes on has folded in the bytes that it read. -/
theorem execCompress_next_of_inside {s t : State} {a n : Nat} (h : execCompress s = .next t) (he : s.err = false)
    (ha : s.algv = true) (hs : s.sact = false) (hsrc : s.a0.toNat = a) (hcount : s.a2.toNat = n)
    (hr : a + n * (algParams s.alg).B ≤ s.params.mmSize) :
    ∃ data, memRead s.mm a (n * (algParams s.alg).B) = .ok data ∧ t = setH (processBlocks s.alg s.h data) s := by
  subst hsrc hcount
  obtain ⟨he', -⟩ | ⟨-, ⟨ha' | hs', -⟩ | ⟨-, -, hr', -⟩ | ⟨-, -, -, hdone⟩⟩ := execCompress_next h
  · simp [he] at he'
  · simp [ha] at ha'
  · simp [hs] at hs'
  · exact absurd hr (Nat.not_le.2 hr')
  · exact hdone

/-- Settles O22: the blocks read in two parts are the blocks read at once, and folding one part after the other is
folding them at once. MM_SIZE is below 2^32, so the second address does not wrap. -/
theorem compressInTwoParts : Obligations.CompressInTwoParts := by
  unfold Obligations.CompressInTwoParts
  intro s t u m k B he ha hs hwf hmk hr ht hu
  have hlt := s.a2.isLt
  obtain ⟨-, hmm⟩ := hwf
  have hsplit : (m + k) * B = m * B + k * B := Nat.add_mul m k B
  have hfirst : s.a0.toNat + m * B ≤ s.params.mmSize := by omega
  have hsecond : s.a0.toNat + m * B + k * B ≤ s.params.mmSize := by omega
  obtain ⟨xs, hxs, rfl⟩ : ∃ xs, memRead s.mm s.a0.toNat (m * B) = .ok xs ∧
      t = setH (processBlocks s.alg s.h xs) (setA2 (BitVec.ofNat 32 m) s) :=
    execCompress_next_of_inside ht he ha hs rfl (toNat_ofNat32 (by omega)) hfirst
  obtain ⟨ys, hys, hu'⟩ : ∃ ys, memRead s.mm (s.a0.toNat + m * B) (k * B) = .ok ys ∧
      u = setH (processBlocks s.alg (processBlocks s.alg s.h xs) ys) _ :=
    execCompress_next_of_inside hu he ha hs (toNat_ofNat32 (by omega)) (toNat_ofNat32 (by omega)) hsecond
  have hx : xs.length % B = 0 := by rw [memRead_length hxs, Nat.mul_mod_left]
  have hy : ys.length % B = 0 := by rw [memRead_length hys, Nat.mul_mod_left]
  have hbytes : compressBytes s = m * B + k * B := by rw [compressBytes, lenArg, hmk, hsplit]
  have hread : memRead s.mm (srcAddr s) (compressBytes s) = .ok (xs ++ ys) := hbytes ▸ memRead_add hxs hys
  have hh : u.h = processBlocks s.alg s.h (xs ++ ys) := by rw [hu', setH_h, processBlocks_append s.alg s.h hx hy]
  rw [hh]
  exact execCompress_of_read he ha hs (by rwa [hbytes, ← hsplit]) hread

/-! ### HASHBUF (R288, R291) -/

/-- Settles O23: HASHBUF completes on the message that its range holds, and folds the blocks of the padded message. -/
theorem hashbufResult : Obligations.HashbufResult := by
  unfold Obligations.HashbufResult
  intro alg s msg B hb hlen hholds hr
  have hread : memRead s.mm (srcAddr s) (lenArg s) = .ok msg := memRead_of_holdsBytes_of_length hholds hlen
  have hpad : (pad msg alg).length = padLen (lenArg s) alg := by
    rw [pad_length, hlen, lenArg]
  rw [← processBlocks_eq_range, hpad]
  exact execHashbuf_of_read hb hr hread

/-- COMPRESS over the padded message that MM holds, from the initial value, leaves what HASHBUF leaves. -/
theorem execCompress_padded {alg : Alg} {s : State} {msg : List Byte} (he : s.err = false) (ha : s.algv = true)
    (hs : s.sact = false) (halg : s.alg = alg) (hh : s.h = initialState alg)
    (hcount : compressBytes s = padLen msg.length alg)
    (hr : srcAddr s + padLen msg.length alg ≤ s.params.mmSize)
    (hm : memRead s.mm (srcAddr s) (padLen msg.length alg) = .ok (pad msg alg)) :
    execCompress s = .next (setH (bufferState alg msg) s) := by
  subst halg
  rw [execCompress_of_read he ha hs (by rwa [hcount]) (by rwa [hcount]), hh, bufferState]

/-- Settles O24: COMPRESS reads back the padded message that PAD stored, and its blocks are PLEN / B in number, which is
below 2^32 as MM_SIZE is. -/
theorem bufferPathInSteps : Obligations.BufferPathInSteps := by
  unfold Obligations.BufferPathInSteps
  intro alg s msg hb hwf hlen hholds hsrc hdst
  obtain ⟨-, hmm⟩ := hwf
  have hread : memRead s.mm (srcAddr s) (lenArg s) = .ok msg := memRead_of_holdsBytes_of_length hholds hlen
  have hplen : (BitVec.ofNat 64 (padLen s.a2.toNat alg)).toNat = padLen s.a2.toNat alg := by
    rw [BitVec.toNat_ofNat, Nat.mod_eq_of_lt (by omega)]
  have hle := Nat.div_le_self (padLen s.a2.toNat alg) (algParams alg).B
  have hcount : (BitVec.ofNat 32 ((BitVec.ofNat 64 (padLen s.a2.toNat alg)).toNat / (algParams alg).B)).toNat *
      (algParams alg).B = padLen msg.length alg := by
    rw [hplen, toNat_ofNat32 (by omega), Nat.div_mul_cancel (blockSize_dvd_padLen _ alg), hlen]
  have hinit := execInit_of_built hb
  have hpad := execPad_of_read (s := initEffects alg s) rfl rfl hsrc hdst hread
  have hhash := execHashbuf_of_read hb hsrc hread
  have hback := memRead_memWrite s.mm (dstAddr s) (pad msg alg)
  rw [pad_length] at hback
  rw [← hlen] at hdst
  exact ⟨_, _, _, _, hinit, hpad, execCompress_padded rfl rfl rfl rfl rfl hcount hdst hback, hhash, rfl, rfl, rfl⟩

/-! ### The digest (R280, R282, R289, R294) -/

/-- Settles O40: a digest has nb bytes, and the lengths in bits are those of R280's table. -/
theorem digestLength : Obligations.DigestLength := by
  unfold Obligations.DigestLength
  intro alg h
  refine ⟨digest_length alg h, ?_⟩
  cases alg <;> rfl

theorem groups_wordsToBytes {W : Nat} (hW : 0 < W) (e : Endian) (ws : List (BitVec (8 * W))) :
    groups W (wordsToBytes W e ws) = ws.map (fun w => encBytes e W w.toNat) := by
  rw [wordsToBytes_eq_flatten, groups_of_flatten hW]
  simp

/-- Byte j of word i stands at byte i * W + j. -/
theorem wordsToBytes_getElem? {W i j : Nat} (e : Endian) {ws : List (BitVec (8 * W))} (hi : i < ws.length)
    (hj : j < W) : (wordsToBytes W e ws)[i * W + j]? = (encBytes e W ws[i].toNat)[j]? := by
  have hW : 0 < W := by omega
  have hg : i < (groups W (wordsToBytes W e ws)).length := by simpa [groups_wordsToBytes hW]
  rw [← groups_getElem_getElem? hg hj]
  simp only [groups_wordsToBytes hW, List.getElem_map]

theorem digestWords_le (alg : Alg) : (algParams alg).nd ≤ 8 := by cases alg <;> decide

theorem stateWords_length (W : Nat) {n : Nat} (h : Bank) (hn : n ≤ 8) : (stateWords W n h).length = n := by
  simp [stateWords, hn]

/-- State word i is the low 8W bits of H[i] (10_state R32). -/
theorem stateWords_getElem_toNat {W n i : Nat} (h : Bank) (hn : n ≤ 8) (hi : i < (stateWords W n h).length) :
    (stateWords W n h)[i].toNat = (bankReg h i).toNat % 256 ^ W := by
  rw [stateWords_length W h hn] at hi
  simp [stateWords, bankReg_lt h i (by omega), pow_256]

theorem digest_getElem? {alg : Alg} {i j : Nat} (h : Bank) (hi : i < (algParams alg).nd) (hj : j < (algParams alg).W) :
    (digest alg h)[i * (algParams alg).W + j]? =
      some (BitVec.ofNat 8 ((bankReg h i).toNat % 256 ^ (algParams alg).W /
        256 ^ (if (algParams alg).digEnd = .be then (algParams alg).W - 1 - j else j))) := by
  have hn := digestWords_le alg
  rw [digest, wordsToBytes_getElem? _ (by rwa [stateWords_length _ h hn]) hj, stateWords_getElem_toNat h hn,
    encBytes_getElem? _ _ hj]

theorem execStdig_of_inside {s : State} (he : s.err = false) (ha : s.algv = true) (hs : s.sact = false)
    (hd : dstAddr s + digestBytes s.alg ≤ s.params.mmSize) :
    execStdig s = .next (setMM (memWrite s.mm (dstAddr s) (digest s.alg s.h)) s) := by
  have hin := (inMM_eq_true s (dstAddr s) (digestBytes s.alg)).2 hd
  simp [execStdig, gated_of_no_err he, ha, hs, hin]

/-- Settles O32: STDIG stores the digest at A1, and each byte is read back from there. -/
theorem stdigResult : Obligations.StdigResult := by
  unfold Obligations.StdigResult
  intro s W d nb he ha hs hd
  refine ⟨_, execStdig_of_inside he ha hs hd, rfl, fun i j hi hj => ?_, fun x hx => ?_⟩
  · exact memByte_memWrite_of_getElem? s.mm d (digest_getElem? s.h hi hj)
  · exact memByte_memWrite_outside (by rwa [digest_length])

end Sys2Proof.Machine
end

section
/-! SUPPORT. Where a command can stop (60_exceptions R348, 93 I3 and I8): each shared operation answers with a next
state or with one fault of its own, so a command's stops are those of the request it makes. -/

namespace Sys2Proof.Machine

/-- The answer is never a refusal, and its only faults are those of P. -/
structure StopsOnly (P : Fault → Prop) (r : Result) : Prop where
  faults : ∀ f, r = .fault f → P f
  notRefused : ∀ q, r ≠ .refused q

/-- A fault on a byte of the n bytes at A0, inside MM, that nothing has written. -/
def UnwrittenSource (s : State) (n : Nat) (f : Fault) : Prop :=
  ∃ x, f = .unwrittenByte x ∧ memByte s.mm x = none ∧ x < s.params.mmSize ∧ srcAddr s ≤ x ∧ x < srcAddr s + n

/-- The faults of each command: those of its source (R326), or a silent stream source. -/
def stopsOf : Instr → State → Fault → Prop
  | .pad, s, f | .hashbuf _, s, f | .bswap _, s, f => UnwrittenSource s (lenArg s) f
  | .compress, s, f => UnwrittenSource s (compressBytes s) f
  | .sbegin _, s, f => f = .streamNeverAnswers ∧ s.source.opens = []
  | .sstep, s, f => f = .streamNeverAnswers ∧ s.source.reads = []
  | .nop, _, _ | .init _, _, _ | .stdig, _, _ | .clrerr, _, _ => False

/-! ### The shared operations -/

section
variable {P : Fault → Prop} {s : State} {k : Result}

theorem stopsOnly_next (t : State) : StopsOnly P (.next t) := ⟨nofun, nofun⟩

theorem stopsOnly_fault {f : Fault} (h : P f) : StopsOnly P (.fault f) := ⟨by rintro _ ⟨⟩; exact h, nofun⟩

/-- A check that answers at once when it fails. -/
theorem stopsOnly_check {c : Prop} [Decidable c] (t : State) (h : ¬ c → StopsOnly P k) :
    StopsOnly P (if c then .next t else k) := by
  split
  · exact stopsOnly_next t
  · next hc => exact h hc

theorem stopsOnly_gated (h : StopsOnly P k) : StopsOnly P (gated s k) := by
  unfold gated
  split
  · exact stopsOnly_next s
  · exact h

theorem stopsOnly_withBuilt {alg : Alg} (h : StopsOnly P k) : StopsOnly P (withBuilt alg s k) := by
  unfold withBuilt
  split
  · exact h
  · exact stopsOnly_next _

/-- The range check comes first, so the byte missed lies inside MM. -/
theorem stopsOnly_withBytes {n : Nat} {k : List Byte → Result} (hin : ¬ (!inMM s (srcAddr s) n) = true)
    (h : ∀ bs, StopsOnly (UnwrittenSource s n) (k bs)) :
    StopsOnly (UnwrittenSource s n) (withBytes s (srcAddr s) n k) := by
  have hle : srcAddr s + n ≤ s.params.mmSize := by simpa using hin
  unfold withBytes
  split
  next x hx =>
    obtain ⟨hlo, hhi, hnone, -⟩ := memRead_error hx
    exact stopsOnly_fault ⟨x, rfl, hnone, by omega, hlo, hhi⟩
  next bs _ => exact h bs

theorem stopsOnly_withOpen {k : OpenAnswer → State → Result}
    (hsilent : s.source.opens = [] → P .streamNeverAnswers) (h : ∀ x u, StopsOnly P (k x u)) :
    StopsOnly P (withOpen s k) := by
  unfold withOpen
  split
  next hnone => exact stopsOnly_fault (hsilent hnone)
  next => exact h _ _

theorem stopsOnly_withRead {n : Nat} {k : ReadAnswer → State → Result}
    (hsilent : s.source.reads = [] → P .streamNeverAnswers) (h : ∀ x u, StopsOnly P (k x u)) :
    StopsOnly P (withRead s n k) := by
  unfold withRead
  split
  next hnone => exact stopsOnly_fault (hsilent hnone)
  next => exact h _ _

end

/-! ### The commands -/

theorem execPad_stopsOnly (s : State) : StopsOnly (stopsOf .pad s) (execPad s) :=
  stopsOnly_gated <| stopsOnly_check _ fun _ => stopsOnly_check _ fun hsrc => stopsOnly_check _ fun _ =>
    stopsOnly_withBytes hsrc fun _ => stopsOnly_next _

theorem execCompress_stopsOnly (s : State) : StopsOnly (stopsOf .compress s) (execCompress s) :=
  stopsOnly_gated <| stopsOnly_check _ fun _ => stopsOnly_check _ fun _ => stopsOnly_check _ fun hsrc =>
    stopsOnly_withBytes hsrc fun _ => stopsOnly_next _

theorem execHashbuf_stopsOnly (alg : Alg) (s : State) : StopsOnly (stopsOf (.hashbuf alg) s) (execHashbuf alg s) :=
  stopsOnly_withBuilt <| stopsOnly_check _ fun hsrc => stopsOnly_withBytes hsrc fun _ => stopsOnly_next _

theorem execBswap_stopsOnly (ws : WordSize) (s : State) : StopsOnly (stopsOf (.bswap ws) s) (execBswap ws s) :=
  stopsOnly_gated <| stopsOnly_check _ fun _ => stopsOnly_check _ fun hsrc =>
    stopsOnly_withBytes hsrc fun _ => stopsOnly_next _

theorem execStdig_stopsOnly (s : State) : StopsOnly (stopsOf .stdig s) (execStdig s) :=
  stopsOnly_gated <| stopsOnly_check _ fun _ => stopsOnly_check _ fun _ => stopsOnly_check _ fun _ => stopsOnly_next _

theorem execSbegin_stopsOnly (alg : Alg) (s : State) : StopsOnly (stopsOf (.sbegin alg) s) (execSbegin alg s) :=
  stopsOnly_withBuilt <| stopsOnly_withOpen (fun hsilent => ⟨rfl, hsilent⟩) fun _ _ => stopsOnly_check _ fun _ =>
    stopsOnly_check _ fun _ => stopsOnly_check _ fun _ => stopsOnly_next _

theorem execSstep_stopsOnly (s : State) : StopsOnly (stopsOf .sstep s) (execSstep s) := by
  refine stopsOnly_gated <| stopsOnly_check _ fun _ =>
    stopsOnly_withRead (fun hsilent => ⟨rfl, hsilent⟩) fun x _ => ?_
  cases x with
  | fault => exact stopsOnly_next _
  | data bs => exact stopsOnly_check _ fun _ => stopsOnly_next _

theorem exec_stopsOnly (i : Instr) (s : State) : StopsOnly (stopsOf i s) (exec i s) := by
  cases i with
  | nop => exact stopsOnly_next s
  | init alg => exact stopsOnly_withBuilt (stopsOnly_next _)
  | pad => exact execPad_stopsOnly s
  | compress => exact execCompress_stopsOnly s
  | hashbuf alg => exact execHashbuf_stopsOnly alg s
  | sbegin alg => exact execSbegin_stopsOnly alg s
  | sstep => exact execSstep_stopsOnly s
  | bswap ws => exact execBswap_stopsOnly ws s
  | stdig => exact execStdig_stopsOnly s
  | clrerr => exact stopsOnly_next _

/-- Settles O16: a command's faults are those of its one read or request, and nothing in it refuses. -/
theorem commandsStopOnlyAsStated : Obligations.CommandsStopOnlyAsStated := by
  unfold Obligations.CommandsStopOnlyAsStated
  intro i s
  obtain ⟨hfault, hrefused⟩ := exec_stopsOnly i s
  refine ⟨hrefused, fun f hf => ?_⟩
  have stop := hfault f hf
  cases i with
  | nop | init | stdig | clrerr => exact stop.elim
  | compress =>
    obtain ⟨x, hx, hnone, hin, hlo, hhi⟩ := stop
    exact .inl ⟨x, hx, hnone, hin, hlo, .inl ⟨rfl, hhi⟩⟩
  | pad | hashbuf | bswap =>
    obtain ⟨x, hx, hnone, hin, hlo, hhi⟩ := stop
    exact .inl ⟨x, hx, hnone, hin, hlo, .inr ⟨by simp, hhi⟩⟩
  | sbegin alg => exact .inr ⟨stop.1, .inr ⟨⟨alg, rfl⟩, stop.2⟩⟩
  | sstep => exact .inr ⟨stop.1, .inl ⟨rfl, stop.2⟩⟩

end Sys2Proof.Machine
end

section
/-! SUPPORT. The error gate and the error entry (60_exceptions R330, R333), and that the engines of a system do not
interact (R345). -/

namespace Sys2Proof.Machine

/-! ### The gate (R333) -/

/-- The ungated OPs as numbers. -/
theorem ungatedOp_opField_iff (c : Word32) :
    let op := c.toNat % 256
    ungatedOp (opField c) = true ↔ op = 0x00 ∨ op = 0x01 ∨ op = 0x04 ∨ op = 0x05 ∨ op = 0x09 := by
  simp [ungatedOp, ← BitVec.toNat_inj, opField_toNat, or_assoc]

theorem gateDrops_of_gated {s : State} {c : Word32} (he : s.err = true) (h : ¬ ungatedOp (opField c) = true) :
    gateDrops s c = true := by simp [gateDrops, he, h]

theorem gateDrops_of_passed {s : State} {c : Word32} (h : s.err = false ∨ ungatedOp (opField c) = true) :
    gateDrops s c = false := by
  obtain he | hop := h
  · simp [gateDrops, he]
  · simp [gateDrops, hop]

theorem commandWrite_of_dropped {s : State} {c : Word32} (h : gateDrops s c = true) : commandWrite c s = .next s :=
  if_pos h

/-- A word that passes the gate and does not decode raises the decoder's error, also while ERR = 1. -/
theorem commandWrite_of_passed_error {s : State} {c : Word32} {e : ErrorCode} (hp : gateDrops s c = false)
    (h : decode s.params.hasSha512 c = .error e) : commandWrite c s = .next (raiseError e s) := by
  simp [commandWrite, hp, h]

/-- Settles O6: the gate drops by OP alone, and past it the word is decoded. -/
theorem errorGate : Obligations.ErrorGate := by
  unfold Obligations.ErrorGate
  intro s c op ungated
  have hop : ungatedOp (opField c) = true ↔ ungated := ungatedOp_opField_iff c
  rw [← hop]
  refine ⟨fun ⟨he, hgated⟩ => commandWrite_of_dropped (gateDrops_of_gated he hgated), fun hpass => ⟨fun i hi => ?_,
    fun e he => ?_⟩⟩
  · exact commandWrite_of_decode hi
  · exact commandWrite_of_passed_error (gateDrops_of_passed hpass) he

/-! ### The error entry (R320, R330) -/

/-- Settles O8: the codes are those of R320's table. -/
theorem errorCodes : Obligations.ErrorCodes := by
  unfold Obligations.ErrorCodes
  rfl

/-- Only NOP completes with an error still pending. -/
theorem completes_with_err {i : Instr} {s t : State} (h : Completes i s t) (ht : t.err = true) : t = s := by
  cases h with
  | nop => rfl
  | init | hashbuf | sbegin | clrerr => cases ht
  | pad noErr | compress noErr | sstep noErr | bswap noErr | stdig noErr => exact absurd (noErr.symm.trans ht) nofun

/-- The error writes, with the fields of the stream port that a request has changed. -/
theorem raiseError_of_asked {i : Instr} {s u : State} (e : ErrorCode) (h : Asked i s u) :
    raiseError e u = { raiseError e s with source := u.source, port := u.port } := by
  cases h <;> rfl

/-- Settles O7: a word is dropped, raises the decoder's error, or is a command, and a command that ends with ERR = 1 was
dropped, has raised its error after at most one request, or is a NOP. -/
theorem errorEntry : Obligations.ErrorEntry := by
  unfold Obligations.ErrorEntry
  intro s t c h ht
  obtain rfl | ⟨e, -, rfl⟩ | ⟨i, -, hexec⟩ := commandWrite_next h
  · exact .inl rfl
  · exact .inr ⟨e, rfl⟩
  · cases exec_executes hexec with
    | dropped => exact .inl rfl
    | raised e asked => exact .inr ⟨e, raiseError_of_asked e asked⟩
    | completed done => exact .inl (completes_with_err done ht)

/-! ### Engines (R345) -/

theorem systemStep_of_step {k : Nat} {sys : System} {s t : State} (hs : sys.engines[k]? = some s)
    (h : step s = .next t) : systemStep k sys = .next { engines := sys.engines.set k t } := by
  simp [systemStep, hs, h]

/-- Settles O55: a system step replaces the entry of the engine stepped by that engine's own next state. -/
theorem instancesDoNotInteract : Obligations.InstancesDoNotInteract := by
  unfold Obligations.InstancesDoNotInteract
  intro sys k s hs
  refine ⟨fun sys' h => ?_, fun t ht => ⟨_, systemStep_of_step hs ht⟩⟩
  obtain ⟨hnone, -⟩ | ⟨s', t, hs', hstep, rfl⟩ := systemStep_next h
  · rw [hs] at hnone; cases hnone
  obtain rfl : s = s' := Option.some.inj (hs.symm.trans hs')
  have hk : k < sys.engines.length := (List.getElem?_eq_some_iff.1 hs).1
  exact ⟨⟨t, hstep, List.getElem?_set_self hk⟩, List.length_set, fun j hj => List.getElem?_set_ne hj.symm⟩

end Sys2Proof.Machine
end

section
/-! SUPPORT. When each command raises each error (60_exceptions R321 to R328): what it answers where a check fails, in
the order of its checks, and by R295's errors column that no other command raises it. -/

namespace Sys2Proof.Machine

/-! ### The checks that fail -/

theorem withBuilt_of_not_built {alg : Alg} {s : State} {k : Result} (h : algBuilt s.params.hasSha512 alg = false) :
    withBuilt alg s k = .next (raiseError .notImplemented s) := by simp [withBuilt, h]

theorem withOpen_of_answer {s : State} {x : OpenAnswer} {rest : List OpenAnswer} {k : OpenAnswer → State → Result}
    (h : s.source.opens = x :: rest) : withOpen s k = k x (tookOpen x rest s) := by simp [withOpen, h]

theorem withRead_of_answer {s : State} {n : Nat} {x : ReadAnswer} {rest : List ReadAnswer}
    {k : ReadAnswer → State → Result} (h : s.source.reads = x :: rest) :
    withRead s n k = k x (tookRead n x rest s) := by simp [withRead, h]

section
variable {s : State} (he : s.err = false)
include he

theorem execPad_of_no_algorithm (ha : s.algv = false) : execPad s = .next (raiseError .sequenceError s) := by
  simp [execPad, gated_of_no_err he, ha]

theorem execCompress_of_sequence (h : s.algv = false ∨ s.sact = true) :
    execCompress s = .next (raiseError .sequenceError s) := by
  obtain ha | hs := h
  · simp [execCompress, gated_of_no_err he, ha]
  · simp [execCompress, gated_of_no_err he, hs]

theorem execStdig_of_sequence (h : s.algv = false ∨ s.sact = true) :
    execStdig s = .next (raiseError .sequenceError s) := by
  obtain ha | hs := h
  · simp [execStdig, gated_of_no_err he, ha]
  · simp [execStdig, gated_of_no_err he, hs]

theorem execPad_of_outside (ha : s.algv = true)
    (h : s.params.mmSize < srcAddr s + lenArg s ∨ s.params.mmSize < dstAddr s + padLen (lenArg s) s.alg) :
    execPad s = .next (raiseError .addressRange s) := by
  obtain hsrc | hdst := h
  · simp [execPad, gated_of_no_err he, ha, (inMM_eq_false s _ _).2 hsrc]
  · simp [execPad, gated_of_no_err he, ha, (inMM_eq_false s _ _).2 hdst]

theorem execCompress_of_outside (ha : s.algv = true) (hs : s.sact = false)
    (h : s.params.mmSize < srcAddr s + compressBytes s) : execCompress s = .next (raiseError .addressRange s) := by
  simp [execCompress, gated_of_no_err he, ha, hs, (inMM_eq_false s _ _).2 h]

theorem execStdig_of_outside (ha : s.algv = true) (hs : s.sact = false)
    (h : s.params.mmSize < dstAddr s + digestBytes s.alg) : execStdig s = .next (raiseError .addressRange s) := by
  simp [execStdig, gated_of_no_err he, ha, hs, (inMM_eq_false s _ _).2 h]

theorem execBswap_of_part_word {ws : WordSize} (hw : lenArg s % wordSizeBytes ws ≠ 0) :
    execBswap ws s = .next (raiseError .invalidLength s) := by
  simp [execBswap, gated_of_no_err he, hw]

theorem execBswap_of_outside {ws : WordSize} (hw : lenArg s % wordSizeBytes ws = 0)
    (h : s.params.mmSize < srcAddr s + lenArg s) : execBswap ws s = .next (raiseError .addressRange s) := by
  simp [execBswap, gated_of_no_err he, hw, (inMM_eq_false s _ _).2 h]

theorem execSstep_of_fault {rest : List ReadAnswer} (hs : s.sact = true) (hx : s.source.reads = .fault :: rest) :
    execSstep s = .next (raiseError .streamFault (tookRead (stepBytes s) .fault rest s)) := by
  simp [execSstep, gated_of_no_err he, hs, withRead_of_answer hx]

theorem execSstep_of_wrong_length {bs : List Byte} {rest : List ReadAnswer} (hs : s.sact = true)
    (hx : s.source.reads = .data bs :: rest) (hl : bs.length ≠ stepBytes s) :
    execSstep s = .next (raiseError .lengthMismatch (tookRead (stepBytes s) (.data bs) rest s)) := by
  simp [execSstep, gated_of_no_err he, hs, withRead_of_answer hx, hl]

end

section
variable {alg : Alg} {s : State} (hb : algBuilt s.params.hasSha512 alg = true)
include hb

theorem execHashbuf_of_outside (h : s.params.mmSize < srcAddr s + lenArg s) :
    execHashbuf alg s = .next (raiseError .addressRange s) := by
  simp [execHashbuf, withBuilt_of_built hb, (inMM_eq_false s _ _).2 h]

variable {x : OpenAnswer} {rest : List OpenAnswer} (hx : s.source.opens = x :: rest)
include hx

theorem execSbegin_of_unreadable (hr : x.readable = false) :
    execSbegin alg s = .next (raiseError .streamUnreadable (tookOpen x rest s)) := by
  simp [execSbegin, withBuilt_of_built hb, withOpen_of_answer hx, hr]

theorem execSbegin_of_unknown_length (hr : x.readable = true) (hk : x.lengthKnown = false) :
    execSbegin alg s = .next (raiseError .lengthRequired (tookOpen x rest s)) := by
  simp [execSbegin, withBuilt_of_built hb, withOpen_of_answer hx, hr, hk]

theorem execSbegin_of_long (hr : x.readable = true) (hk : x.lengthKnown = true) (hl : 2 ^ 61 ≤ x.total.toNat) :
    execSbegin alg s = .next (raiseError .lengthRange (tookOpen x rest s)) := by
  rw [execSbegin, withBuilt_of_built hb, withOpen_of_answer hx]
  simp only [hr, hk, Bool.not_true, Bool.false_eq_true, if_false]
  exact if_pos hl

end

/-! ### The obligations -/

/-- Settles O10: the sequence check is the first check past the gate, and code 7 stands in four rows of R295. -/
theorem sequenceErrors : Obligations.SequenceErrors := by
  unfold Obligations.SequenceErrors
  constructor
  · intro s he t
    exact ⟨execPad_of_no_algorithm he, execCompress_of_sequence he, execSstep_of_no_stream he,
      execStdig_of_sequence he⟩
  · intro i s t he h ht hc
    have row := errorsOfCommands i s t he h ht
    cases i with
    | pad | compress | sstep | stdig => simp
    | nop | init | hashbuf | sbegin | bswap | clrerr => simp [hc] at row

/-- Settles O11: the range checks come before the read, and depend on the operands and MM_SIZE alone. -/
theorem addressRangeErrors : Obligations.AddressRangeErrors := by
  unfold Obligations.AddressRangeErrors
  intro s N t
  exact ⟨execPad_of_outside, execCompress_of_outside, fun alg hb hr => execHashbuf_of_outside hb hr,
    fun he hw hr => execBswap_of_outside (ws := .w32) he hw hr,
    fun he hw hr => execBswap_of_outside (ws := .w64) he hw hr, execStdig_of_outside⟩

/-- Settles O12: BSWAP checks its length first past the gate, and code 1 stands in its row of R295 alone. -/
theorem invalidLengthErrors : Obligations.InvalidLengthErrors := by
  unfold Obligations.InvalidLengthErrors
  constructor
  · intro s he t
    exact ⟨execBswap_of_part_word (ws := .w32) he, execBswap_of_part_word (ws := .w64) he⟩
  · intro i s t he h ht hc
    have row := errorsOfCommands i s t he h ht
    cases i with
    | bswap ws => exact ⟨ws, rfl⟩
    | nop | init | pad | compress | hashbuf | sbegin | sstep | stdig | clrerr => simp [hc] at row

/-- Settles O13: the answer is taken, and the first of its three conditions that fails gives the error. -/
theorem sbeginErrors : Obligations.SbeginErrors := by
  unfold Obligations.SbeginErrors
  intro alg s x rest hb hx raised
  exact ⟨execSbegin_of_unreadable hb hx, execSbegin_of_unknown_length hb hx, execSbegin_of_long hb hx⟩

/-- Settles O14: the answer is taken, and a fault or a wrong length raises before any block is compressed. -/
theorem sstepErrors : Obligations.SstepErrors := by
  unfold Obligations.SstepErrors
  intro s x rest he hs hx k raised
  constructor
  · rintro rfl
    exact execSstep_of_fault he hs hx
  · rintro bs rfl hl
    exact execSstep_of_wrong_length he hs hx hl

/-- The commands that the build lacks: those of SHA2-512, where it is not built. -/
theorem sha512_of_not_wellFormed {has : Bool} {i : Instr} (h : wellFormed has i = false) :
    has = false ∧ (i = .init .sha512 ∨ i = .hashbuf .sha512 ∨ i = .sbegin .sha512) := by
  cases i with
  | init alg | hashbuf alg | sbegin alg => cases alg <;> simp_all [wellFormed, algBuilt]
  | nop | pad | compress | sstep | bswap | stdig | clrerr => cases h

/-- A command that raises NOT_IMPLEMENTED is one that the build lacks. -/
theorem not_wellFormed_of_cause {i : Instr} {s t : State} (he : s.err = false) (h : exec i s = .next t)
    (ht : t.err = true) (hc : t.cause = 4) : wellFormed s.params.hasSha512 i = false := by
  have row := errorsOfCommands i s t he h ht
  cases i with
  | nop | pad | compress | sstep | bswap | stdig | clrerr => simp [hc] at row
  | init alg =>
    obtain ⟨hb, -⟩ | ⟨-, rfl⟩ := execInit_next h
    · exact hb
    · cases ht
  | hashbuf alg =>
    obtain ⟨hb, -⟩ | ⟨-, ⟨-, rfl⟩ | ⟨-, msg, -, rfl⟩⟩ := execHashbuf_next h
    · exact hb
    · cases hc
    · cases ht
  | sbegin alg =>
    obtain ⟨hb, -⟩ | ⟨-, x, rest, -, ⟨-, rfl⟩ | ⟨-, -, rfl⟩ | ⟨-, -, -, rfl⟩ | ⟨-, -, -, rfl⟩⟩ := execSbegin_next h
    · exact hb
    · cases hc
    · cases hc
    · cases hc
    · cases ht

/-- Settles O15: the three words pass the gate and fail the decoder's last check, which the command makes too; a command
that raises code 4 is one that the build lacks. -/
theorem notImplementedErrors : Obligations.NotImplementedErrors := by
  unfold Obligations.NotImplementedErrors
  constructor
  · intro s h512 t
    have absent : algBuilt s.params.hasSha512 .sha512 = false := h512
    have word {c : Word32} (hop : ungatedOp (opField c) = true) (hd : decode false c = .error .notImplemented) :
        commandWrite c s = .next t :=
      commandWrite_of_passed_error (gateDrops_of_passed (.inr hop)) (h512 ▸ hd)
    exact ⟨⟨word rfl rfl, word rfl rfl, word rfl rfl⟩, withBuilt_of_not_built absent, withBuilt_of_not_built absent,
      withBuilt_of_not_built absent⟩
  · intro i s t he h ht hc
    exact sha512_of_not_wellFormed (not_wellFormed_of_cause he h ht hc)

end Sys2Proof.Machine
end

section
/-! SUPPORT. Reset as a step (70_reset R360, R362): the waiting reset is taken from the host's accesses, and the engine
that is left takes its reset values. -/

namespace Sys2Proof.Machine

/-- A reset meets no check: the step that takes it resets the engine. -/
theorem step_of_reset {s : State} {rest : List HostAccess} (h : s.pending = .reset :: rest) :
    step s = .next (resetEngine (setReply .nothing (setPending rest s))) := hostStep_of_pending h

/-- Taking the access changes only what waits and the reply (R88), so the parameters, the source and the port that a
reset keeps (R362) are those of the state before the step. -/
theorem resetEngine_of_taken (s : State) (rest : List HostAccess) :
    resetEngine (setReply .nothing (setPending rest s)) =
      { State.resetWith s.params with source := s.source, port := s.port, pending := rest, reply := .nothing } := rfl

/-- Settles O48: the step resets the engine from which the access was taken. -/
theorem resetStep : Obligations.ResetStep := by
  unfold Obligations.ResetStep
  intro s rest hpend
  rw [step_of_reset hpend, resetEngine_of_taken]

end Sys2Proof.Machine
end
